-- ==== Sys2Proof/Word.lean ====
section
/-! DEFINITION. The words of the hardware: byte and symbol, command word, slice index, group value (R10, R7). All are unsigned. -/

namespace Sys2Proof

/-- An input byte or an output symbol: 8 bits (`BYTE_WIDTH`, `SYM_WIDTH`, R7). -/
abbrev Byte := BitVec 8

/-- A command word: 10 bits (`CMD_WIDTH`, R7, R80). -/
abbrev CmdWord := BitVec 10

/-- An index of the alphabet ROM: 6 bits (R10, R131). -/
abbrev Index := BitVec 6

/-- A group value: 24 bits (R10, R130). -/
abbrev GroupValue := BitVec 24

end Sys2Proof
end

