-- ==== Sys2Proof/Config.lean ====
section
/-! DEFINITION. The parameters of R7. The hardware has no free value: R83 leaves no behaviour undefined and R35's
absent `OUT_DATA` is modelled as an absent value. -/

namespace Sys2Proof.Config

/-- `LINE_WIDTH`: characters on an output line (R7; only 76 is this hardware, D20, log 14). -/
def lineWidth : Nat := 76

/-- `OBUF_DEPTH`: the most symbols the output buffer holds (R7, R26). -/
def obufDepth : Nat := 5

/-- `CMD_WIDTH`: bits of a command word (R7, R80). -/
def cmdWidth : Nat := 10

end Sys2Proof.Config
end

