-- ==== Sys2Proof/Syntax.lean ====
section
/-! DEFINITION. The commands: one constructor per row of spec/opcode_table.json (R80 to R83). -/

namespace Sys2Proof

/-- A decoded command word. Each of the three illegal rows keeps its DATA field, so that every word has one term. -/
inductive Instr where
  /-- `BYTE d`: OP = 00 (R102). -/
  | byte (d : Byte)
  /-- `FLUSH`: OP = 01, DATA = 0x00 (R103). -/
  | flush
  /-- ILLEGAL (FLUSH with nonzero data): OP = 01, DATA = 0x01..0xFF (R104). -/
  | illegalFlushData (d : Byte)
  /-- ILLEGAL (reserved OP=10): any DATA (R104). -/
  | illegalOp10 (d : Byte)
  /-- ILLEGAL (reserved OP=11): any DATA (R104). -/
  | illegalOp11 (d : Byte)
  deriving DecidableEq, Repr

end Sys2Proof
end

