-- ==== Sys2Proof/WellFormed.lean ====
section
/-! DEFINITION. Which terms stand for a word: the one check is that the row "FLUSH with nonzero data" has a nonzero
DATA field (R82; with DATA = 0x00 the word is FLUSH). -/

namespace Sys2Proof

/-- The instruction is what some command word decodes to (R82). -/
def wellFormed : Instr → Bool
  | .byte _ => true
  | .flush => true
  | .illegalFlushData d => d != 0x00#8
  | .illegalOp10 _ => true
  | .illegalOp11 _ => true

end Sys2Proof
end

