-- ==== Sys2Proof/Decode.lean ====
section
/-! DEFINITION. The command word's fields (R80, R81), the total decoder (R82), and after it the encoder. Decoding reads
no state (R84). There is no byte stream of commands to decode from (R29, R60): the decoder's input is the word on `CMD`. -/

namespace Sys2Proof

/-- `OP = w[9:8]` (R80). -/
def opField (w : CmdWord) : BitVec 2 := w.extractLsb' 8 2

/-- `DATA = w[7:0]`, the data byte unchanged (R80, R81). -/
def dataField (w : CmdWord) : Byte := w.extractLsb' 0 8

/-- `Decode(w)`, total on all 1024 words (R82); the illegal words split into the three rows of the opcode table. -/
def decode (w : CmdWord) : Instr :=
  if opField w = 0b00#2 then .byte (dataField w)
  else if opField w = 0b01#2 then
    if dataField w = 0x00#8 then .flush else .illegalFlushData (dataField w)
  else if opField w = 0b10#2 then .illegalOp10 (dataField w)
  else .illegalOp11 (dataField w)

/-- Why a number is no command word. -/
inductive DecodeError where
  /-- The number needs more than the 10 bits of the command port (R36, R80). Raised by `decodeNat`; safe. -/
  | notACommandWord
  deriving DecidableEq, Repr

/-- Decode a number as the word on the command port: a number of more than 10 bits is no command word (R36, log 7). -/
def decodeNat (w : Nat) : Except DecodeError Instr :=
  if w < 2 ^ Config.cmdWidth then .ok (decode (BitVec.ofNat 10 w)) else .error .notACommandWord

/-- The instruction the decoder reads from a table row's word of `nbits` bits; every bit above `nbits` is 0. -/
def decodeTableWord (nbits w : Nat) : Option Instr :=
  match decodeNat (w % 2 ^ nbits) with
  | .ok i => some i
  | .error _ => none

/-- The word with the given OP and DATA fields (R80). -/
def assembleWord (op : BitVec 2) (d : Byte) : CmdWord := op ++ d

/-- The command word of an instruction, from the table of R82. -/
def encode : Instr → CmdWord
  | .byte d => assembleWord 0b00#2 d
  | .flush => assembleWord 0b01#2 0x00#8
  | .illegalFlushData d => assembleWord 0b01#2 d
  | .illegalOp10 d => assembleWord 0b10#2 d
  | .illegalOp11 d => assembleWord 0b11#2 d

/-- The `match` and `mask` columns of the table of R82 for an instruction's row. -/
def encodingRow : Instr → CmdWord × CmdWord
  | .byte _ => (0x000#10, 0x300#10)
  | .flush => (0x100#10, 0x3FF#10)
  | .illegalFlushData _ => (0x100#10, 0x300#10)
  | .illegalOp10 _ => (0x200#10, 0x300#10)
  | .illegalOp11 _ => (0x300#10, 0x300#10)

end Sys2Proof
end

