-- ==== Sys2Proof/Machine/Rom.lean ====
section
/-! DEFINITION. The contents of the alphabet ROM and the codes of the two symbols that are not in it (R30, R31; the
ASCII codes are the spec's own from general knowledge, G1, G2; log 5). -/

namespace Sys2Proof.Machine

/-- Entries 0 to 15 of the table of R30: `A` to `P`. -/
def rom0 : Vector Byte 16 :=
  #v[0x41, 0x42, 0x43, 0x44, 0x45, 0x46, 0x47, 0x48, 0x49, 0x4A, 0x4B, 0x4C, 0x4D, 0x4E, 0x4F, 0x50]

/-- Entries 16 to 31 of the table of R30: `Q` to `Z`, `a` to `f`. -/
def rom1 : Vector Byte 16 :=
  #v[0x51, 0x52, 0x53, 0x54, 0x55, 0x56, 0x57, 0x58, 0x59, 0x5A, 0x61, 0x62, 0x63, 0x64, 0x65, 0x66]

/-- Entries 32 to 47 of the table of R30: `g` to `v`. -/
def rom2 : Vector Byte 16 :=
  #v[0x67, 0x68, 0x69, 0x6A, 0x6B, 0x6C, 0x6D, 0x6E, 0x6F, 0x70, 0x71, 0x72, 0x73, 0x74, 0x75, 0x76]

/-- Entries 48 to 63 of the table of R30: `w` to `z`, `0` to `9`, `+`, `/`. -/
def rom3 : Vector Byte 16 :=
  #v[0x77, 0x78, 0x79, 0x7A, 0x30, 0x31, 0x32, 0x33, 0x34, 0x35, 0x36, 0x37, 0x38, 0x39, 0x2B, 0x2F]

/-- The 64 entries of the ROM `LUT`, in index order (R30). -/
def alphabetRom : Vector Byte 64 := rom0 ++ rom1 ++ rom2 ++ rom3

/-- `PADC`, the code of the pad character `=` (R31). -/
def padc : Byte := 0x3D#8

/-- `LF`, the code of the line terminator (R31). -/
def lf : Byte := 0x0A#8

end Sys2Proof.Machine
end

