-- ==== Sys2Proof/Machine/State.lean ====
section
/-! DEFINITION. The state: the seven registers and the ROM of R20, and beside them the model's own record of the two
agents of the environment (R8). All of it is plain data. The core has no memory (R60) and no program counter (R29). -/

namespace Sys2Proof.Machine

/-- The agents of the environment (R8): the HOST owns `CMD` and `RESET`, the SINK owns `TAKE` and `WERR` (R171). -/
inductive Agent where
  | host
  | sink
  deriving DecidableEq, Repr

/-- An event of the environment (R32): all that ever moves the core (R8). -/
inductive Event where
  /-- The HOST writes a command word on `CMD` (R101). -/
  | cmd (w : CmdWord)
  /-- The SINK takes the head symbol (R135). -/
  | take
  /-- The SINK failed to write the head symbol (R136). -/
  | werr
  /-- The HOST performs a reset (R180). -/
  | reset
  deriving DecidableEq, Repr

/-- The causes a fault can have (R160). -/
inductive Cause where
  /-- WRITE_ERROR, raised by WERR (R161). -/
  | writeError
  /-- ILLEGAL_CMD, raised by accepting an illegal word (R162). -/
  | illegalCmd
  deriving DecidableEq, Repr

/-- The state of the core (R20) and of its environment. -/
structure State where
  /-- `GRP0`: the first byte of the current group (R21). -/
  grp0 : Byte
  /-- `GRP1`: the second byte of the current group (R22). -/
  grp1 : Byte
  /-- `GCNT`: bytes held in the current group (R24). -/
  gcnt : BitVec 2
  /-- `COL`: characters emitted on the current line (R25). -/
  col : BitVec 7
  /-- `OBUF`: symbols produced and not yet taken, the oldest first (R26). -/
  obuf : List Byte
  /-- `FAULT`: the core has stopped on a fault (R28). -/
  fault : Bool
  /-- `FCAUSE`: why it stopped (R28, R160). -/
  fcause : BitVec 2
  /-- `LUT`: the alphabet ROM, which no event writes (R20, R30; log 5). -/
  lut : Vector Byte 64
  /-- The environment's, not the core's: the events HOST and SINK are about to perform, in their order (R12; log 1). -/
  pending : List Event
  /-- The environment's: the delivered stream, the symbols the SINK has taken since reset (R11, R189; log 4). -/
  delivered : List Byte
  /-- The environment's: the HOST's record of the last command accepted in this run (R189; log 4). -/
  lastCmd : Option CmdWord
  deriving DecidableEq, Repr

/-- Faults that end a run of the MODEL. There is none: the core's own faults (R160) are states it enters and leaves by
RESET, so both are next states (R163, R167; log 15). Nobody raises one; safe. -/
inductive Fault where
  deriving DecidableEq, Repr

/-- Refusals of the model. -/
inductive Refusal where
  /-- An instruction that has no meaning yet. Raised only by an arm of `exec` that is still rejected by name; no arm
  is. Safe: the model stops where the hardware goes on. -/
  | notModelled (mnemonic : String)
  deriving DecidableEq, Repr

/-- The machine right after RESET, its environment idle: every register as R40 gives it, STATUS = 0x00001 (R181). -/
def State.reset : State where
  grp0 := 0x00#8
  grp1 := 0x00#8
  gcnt := 0#2
  col := 0#7
  obuf := []
  fault := false
  fcause := 0#2
  lut := alphabetRom
  pending := []
  delivered := []
  lastCmd := none

end Sys2Proof.Machine
end

