-- ==== Sys2Proof/Machine/Flags.lean ====
section
/-! DEFINITION. The signals derived from the state: the ports of R32, the flags of R33, R34 and R39, the head symbol of R35 and the
STATUS word of R37. Each is a function of the state: reading one is no event and changes nothing (R38). -/

namespace Sys2Proof.Machine

/-- The `FCAUSE` code of a cause (R160); 0 is NONE and 3 is never written. -/
def Cause.code : Cause → BitVec 2
  | .writeError => 1#2
  | .illegalCmd => 2#2

/-- `OCNT`: the length of OBUF as its 3-bit STATUS field (R26, R37). -/
def State.ocnt (s : State) : BitVec 3 := BitVec.ofNat 3 s.obuf.length

/-- `IN_READY = (FAULT = 0) and (OCNT = 0)` (R33). -/
def State.inReady (s : State) : Bool := !s.fault && s.obuf.isEmpty

/-- `OUT_VALID = (FAULT = 0) and (OCNT > 0)` (R34). -/
def State.outValid (s : State) : Bool := !s.fault && !s.obuf.isEmpty

/-- `OUT_DATA`: the oldest symbol while OUT_VALID = 1, else no value at all (R35; log 8). -/
def State.outData (s : State) : Option Byte := if s.outValid then s.obuf.head? else none

/-- `FAULT_OUT` equals `FAULT` (R32, R168). -/
def State.faultOut (s : State) : Bool := s.fault

/-- The read-only `STATUS` word, by the formula of R37. -/
def State.status (s : State) : BitVec 32 :=
  (BitVec.ofBool s.inReady).setWidth 32 ||| (BitVec.ofBool s.outValid).setWidth 32 <<< 1 |||
  (BitVec.ofBool s.fault).setWidth 32 <<< 2 ||| s.fcause.setWidth 32 <<< 3 |||
  s.gcnt.setWidth 32 <<< 5 ||| s.ocnt.setWidth 32 <<< 7 ||| s.col.setWidth 32 <<< 10

end Sys2Proof.Machine
end

