-- ==== Sys2Proof/Machine/Operands.lean ====
section
/-! DEFINITION. The operand side of a command: the group value of its bytes (R130), the 6-bit slicer (R131), the ROM
lookup (R132) and the encoded units (R133). -/

namespace Sys2Proof.Machine

/-- `G3(b0, b1, b2)`: the first byte of the group is the most significant (R130, R62). -/
def group3 (b0 b1 b2 : Byte) : GroupValue :=
  b0.setWidth 24 <<< 16 ||| b1.setWidth 24 <<< 8 ||| b2.setWidth 24

/-- `G2(b0, b1)`: the missing third byte is zero (R130). -/
def group2 (b0 b1 : Byte) : GroupValue := group3 b0 b1 0x00#8

/-- `G1(b0)`: the missing bytes are zero (R130). -/
def group1 (b0 : Byte) : GroupValue := group3 b0 0x00#8 0x00#8

/-- `s0 = v[23:18]` (R131). -/
def slice0 (v : GroupValue) : Index := v.extractLsb' 18 6

/-- `s1 = v[17:12]` (R131). -/
def slice1 (v : GroupValue) : Index := v.extractLsb' 12 6

/-- `s2 = v[11:6]` (R131). -/
def slice2 (v : GroupValue) : Index := v.extractLsb' 6 6

/-- `s3 = v[5:0]` (R131). -/
def slice3 (v : GroupValue) : Index := v.extractLsb' 0 6

/-- `LUT[i]`: the lookup is total (R132). -/
def lookup (lut : Vector Byte 64) (i : Index) : Byte := lut.get i.toFin

/-- `Unit3`: the four characters of a full group (R133). -/
def unit3 (lut : Vector Byte 64) (b0 b1 b2 : Byte) : List Byte :=
  let v := group3 b0 b1 b2
  [lookup lut (slice0 v), lookup lut (slice1 v), lookup lut (slice2 v), lookup lut (slice3 v)]

/-- `Unit2`: three characters and one pad (R133). -/
def unit2 (lut : Vector Byte 64) (b0 b1 : Byte) : List Byte :=
  let v := group2 b0 b1
  [lookup lut (slice0 v), lookup lut (slice1 v), lookup lut (slice2 v), padc]

/-- `Unit1`: two characters and two pads (R133). -/
def unit1 (lut : Vector Byte 64) (b0 : Byte) : List Byte :=
  let v := group1 b0
  [lookup lut (slice0 v), lookup lut (slice1 v), padc, padc]

end Sys2Proof.Machine
end

