-- ==== Sys2Proof/Machine/Ops.lean ====
section
/-! DEFINITION. The named operations the meanings are written in: register writes, the line-wrap formatter `Emit`
(R134), entering a fault (R163) and leaving it, which only RESET does (R167, R180). -/

namespace Sys2Proof.Machine

/-- Write the group registers `GRP0`, `GRP1`, `GCNT` (R21, R22, R24). -/
def State.setGroup (g0 g1 : Byte) (n : BitVec 2) (s : State) : State :=
  { s with grp0 := g0, grp1 := g1, gcnt := n }

/-- Append one symbol at the tail of OBUF (R11, R26). -/
def State.pushSymbol (c : Byte) (s : State) : State := { s with obuf := s.obuf ++ [c] }

/-- Write `COL` (R25). -/
def State.setCol (c : BitVec 7) (s : State) : State := { s with col := c }

/-- Write `FAULT <- 1` and `FCAUSE` (R28). -/
def State.setFault (code : BitVec 2) (s : State) : State := { s with fault := true, fcause := code }

/-- Drop the head of OBUF, leaving `rest`, and deliver `c` to the SINK (R135, `Deliver` of R11). -/
def State.deliver (c : Byte) (rest : List Byte) (s : State) : State :=
  { s with obuf := rest, delivered := s.delivered ++ [c] }

/-- Replace what the environment is about to do (log 1). -/
def State.setPending (es : List Event) (s : State) : State := { s with pending := es }

/-- The HOST records the word it has just seen accepted (R189; log 4). -/
def State.recordCmd (w : CmdWord) (s : State) : State := { s with lastCmd := some w }

/-- `Emit(c)`: append the character; after the 76th of a line append the terminator too and restart the column
(R134). The sum is of 7 bits (R137). -/
def emit (c : Byte) (s : State) : State :=
  if s.col + 1#7 = BitVec.ofNat 7 Config.lineWidth then ((s.pushSymbol c).pushSymbol lf).setCol 0#7
  else (s.pushSymbol c).setCol (s.col + 1#7)

/-- `Emit` of each character in order; each sees the `COL` of the one before (R11, C10). -/
def emitAll : List Byte → State → State
  | [], s => s
  | c :: cs, s => emitAll cs (emit c s)

/-- `GRP0 <- 0x00; GRP1 <- 0x00; GCNT <- 0` (R27). -/
def clearGroup (s : State) : State := s.setGroup 0x00#8 0x00#8 0#2

/-- `raise Fault(cause)`: the one entry to the fault state (R163). The first cause is kept (R166). -/
def raiseFault (cause : Cause) (s : State) : State :=
  if s.fault then s else s.setFault cause.code

/-- RESET of the core (R180): every register to its reset value, the ROM not affected. It is the only way out of the
fault state (R167), and it starts a new run: the delivered stream and the HOST's record of the run are empty. -/
def resetCore (s : State) : State where
  grp0 := 0x00#8
  grp1 := 0x00#8
  gcnt := 0#2
  col := 0#7
  obuf := []
  fault := false
  fcause := 0#2
  lut := s.lut
  pending := s.pending
  delivered := []
  lastCmd := none

/-- Acceptance of a command: its effect `k` takes place only while IN_READY = 1; otherwise the command has no step and
every register keeps its value (R101; log 3). -/
def whenReady (s : State) (k : State → State) : Host.Outcome State Fault Refusal :=
  .next (if s.inReady then k s else s)

end Sys2Proof.Machine
end

