-- ==== Sys2Proof/Machine/Commands.lean ====
section
/-! DEFINITION. The meanings of the commands: the grouper and padding FSM of R100, written out by R102, R103, R104. -/

namespace Sys2Proof.Machine

/-- `BYTE d` (R102): first byte, second byte, or the third, which emits the full unit at once and is never stored (R23).
As in the rule, the last branch is the one with neither 0 nor 1 in GCNT (log 10). -/
def execByte (d : Byte) (s : State) : Host.Outcome State Fault Refusal :=
  whenReady s fun s =>
    if s.gcnt = 0#2 then s.setGroup d s.grp1 1#2
    else if s.gcnt = 1#2 then s.setGroup s.grp0 d 2#2
    else clearGroup (emitAll (unit3 s.lut s.grp0 s.grp1 d) s)

/-- `FLUSH` (R103): emit the padded unit of a pending partial group, if there is one, and clear the group. -/
def execFlush (s : State) : Host.Outcome State Fault Refusal :=
  whenReady s fun s =>
    if s.gcnt = 0#2 then clearGroup s
    else if s.gcnt = 1#2 then clearGroup (emitAll (unit1 s.lut s.grp0) s)
    else clearGroup (emitAll (unit2 s.lut s.grp0 s.grp1) s)

/-- `ILLEGAL(w)` for OP = 01 with DATA nonzero: fault ILLEGAL_CMD, no operand used (R104, R162). -/
def execIllegalFlushData (_d : Byte) (s : State) : Host.Outcome State Fault Refusal :=
  whenReady s (raiseFault .illegalCmd)

/-- `ILLEGAL(w)` for OP = 10: fault ILLEGAL_CMD, no operand used (R104, R162). -/
def execIllegalOp10 (_d : Byte) (s : State) : Host.Outcome State Fault Refusal :=
  whenReady s (raiseFault .illegalCmd)

/-- `ILLEGAL(w)` for OP = 11: fault ILLEGAL_CMD, no operand used (R104, R162). -/
def execIllegalOp11 (_d : Byte) (s : State) : Host.Outcome State Fault Refusal :=
  whenReady s (raiseFault .illegalCmd)

end Sys2Proof.Machine
end

