-- ==== Sys2Proof/Machine/Dispatch.lean ====
section
/-! DEFINITION. The one match over the commands. -/

namespace Sys2Proof.Machine

def exec (i : Instr) (s : State) : Host.Outcome State Fault Refusal :=
  match i with
  | .byte d => Sys2Proof.Machine.execByte d s
  | .flush => Sys2Proof.Machine.execFlush s
  | .illegalFlushData d => Sys2Proof.Machine.execIllegalFlushData d s
  | .illegalOp10 d => Sys2Proof.Machine.execIllegalOp10 d s
  | .illegalOp11 d => Sys2Proof.Machine.execIllegalOp11 d s

end Sys2Proof.Machine
end

