-- ==== Sys2Proof/Machine/Events.lean ====
section
/-! DEFINITION. The events: which agent performs one, when it is enabled (R101, R135, R136, R180), what it does, and
which of the pending ones comes next (R12, R166; log 1). -/

namespace Sys2Proof.Machine

/-- Who performs an event (R8, R171). -/
def Event.agent : Event → Agent
  | .cmd _ => .host
  | .take => .sink
  | .werr => .sink
  | .reset => .host

/-- The event is one of the HOST's. -/
def Event.isHost (e : Event) : Bool := e.agent = .host

/-- The event is one of the SINK's. -/
def Event.isSink (e : Event) : Bool := e.agent = .sink

/-- When an event is enabled: a command while IN_READY = 1 (R101), TAKE and WERR while OUT_VALID = 1 (R135, R136),
RESET always (R180). -/
def State.enabled (s : State) : Event → Bool
  | .cmd _ => s.inReady
  | .take => s.outValid
  | .werr => s.outValid
  | .reset => true

/-- `TAKE` (R135): the head symbol leaves OBUF and is delivered; no step while OUT_VALID = 0. -/
def takeHead (s : State) : State :=
  match s.obuf with
  | [] => s
  | c :: rest => if s.outValid then s.deliver c rest else s

/-- `WERR` (R136): fault WRITE_ERROR, the head symbol stays; no step while OUT_VALID = 0. -/
def writeFails (s : State) : State := if s.outValid then raiseFault .writeError s else s

/-- What an enabled event does, as one atomic event (R12, R68); an accepted command is decoded and executed (R101). -/
def perform (e : Event) (s : State) : Host.Outcome State Fault Refusal :=
  match e with
  | .cmd w => exec (decode w) (s.recordCmd w)
  | .take => .next (takeHead s)
  | .werr => .next (writeFails s)
  | .reset => .next (resetCore s)

/-- The next event to be performed and what then stays pending. An agent whose next event is not enabled waits, all its later
events with it (R70, R101), and the other agent's next event is tried; `waiting` is the agent already found to wait. -/
def nextEvent (on : Event → Bool) : Option Agent → List Event → Option (Event × List Event)
  | _, [] => none
  | none, e :: es =>
    if on e then some (e, es)
    else (nextEvent on (some e.agent) es).map fun p => (p.1, e :: p.2)
  | some a, e :: es =>
    if e.agent = a then (nextEvent on (some a) es).map fun p => (p.1, e :: p.2)
    else if on e then some (e, es)
    else none

/-- The next pending event the core performs, if one is enabled. -/
def State.nextPending (s : State) : Option (Event × List Event) := nextEvent s.enabled none s.pending

/-- One step: the next pending event, or none, and then every register keeps its value (R175; log 2). -/
def stepEvent (s : State) : Host.Outcome State Fault Refusal :=
  match s.nextPending with
  | none => .next s
  | some (e, rest) => perform e (s.setPending rest)

/-- The HOST offers the number `w` on `CMD` before all else that is pending; the port takes 10-bit words and nothing else
(R36; log 6, log 7). -/
def offerWord (w : Nat) (s : State) : State :=
  if w < 2 ^ Config.cmdWidth then s.setPending (.cmd (BitVec.ofNat 10 w) :: s.pending) else s

end Sys2Proof.Machine
end

