-- ==== Sys2Proof/Machine/Step.lean ====
section
/-! DEFINITION. One step of the machine, and how a command word is put where the next step finds it. -/

namespace Sys2Proof.Machine

/-- One step: one event of the environment, chosen by `pending`. -/
def step (s : State) : Host.Outcome State Fault Refusal := stepEvent s

/-- The state with the word `w` of a table row offered on `CMD` next (log 6). -/
def State.withFetchWord (s : State) (nbits w : Nat) : State := offerWord (w % 2 ^ nbits) s

end Sys2Proof.Machine
end

