-- ==== Sys2Proof/Machine/Stream.lean ====
section
/-! DEFINITION. The laws' own functions: the encoding of a source (R138), the line wrap of a character stream (R139), the
commands of a run (R185, R141) and the standard Base64 decoding that R142 (d) names (no hardware, log 17). -/

namespace Sys2Proof.Machine

/-- `Encode(d)`: the characters of one source, three bytes at a time, the last group padded (R138). -/
def encodeSource : List Byte → List Byte
  | [] => []
  | [b0] => unit1 alphabetRom b0
  | [b0, b1] => unit2 alphabetRom b0 b1
  | b0 :: b1 :: b2 :: rest => unit3 alphabetRom b0 b1 b2 ++ encodeSource rest

/-- `Wrap(c, t)`: the symbols appended to OBUF for the characters `t` from column `c`, and the final column (R139). -/
def wrap : Nat → List Byte → List Byte × Nat
  | c, [] => ([], c)
  | c, x :: t =>
    if c + 1 = Config.lineWidth then
      let r := wrap 0 t
      (x :: lf :: r.1, r.2)
    else
      let r := wrap (c + 1) t
      (x :: r.1, r.2)

/-- The word of `BYTE d` (R85). -/
def byteWord (d : Byte) : CmdWord := encode (.byte d)

/-- The word of `FLUSH` (R85). -/
def flushWord : CmdWord := encode .flush

/-- A source framed by the HOST: one BYTE per byte in order, then one FLUSH (R185, `SOURCE` of R86). -/
def sourceWords (d : List Byte) : List CmdWord := d.map byteWord ++ [flushWord]

/-- The command words of a run over sources in order (R70, R141). -/
def runWords (sources : List (List Byte)) : List CmdWord := sources.flatMap sourceWords

/-- The characters of a run: each source encoded separately, in order (R141, C7). -/
def runCharacters (sources : List (List Byte)) : List Byte := sources.flatMap encodeSource

/-- The delivered stream of a run, with its final column (R141). -/
def runStream (sources : List (List Byte)) : List Byte × Nat := wrap 0 (runCharacters sources)

/-- The HOST's part of what is pending, in its order. -/
def hostPart (es : List Event) : List Event := es.filter Event.isHost

/-- The SINK's part of what is pending, in its order. -/
def sinkPart (es : List Event) : List Event := es.filter Event.isSink

/-- The index of an alphabet character (standard decoding, G4). -/
def indexOfChar (c : Byte) : Option Index := (alphabetRom.toList.idxOf? c).map (BitVec.ofNat 6)

/-- Four indices joined, the most significant first (standard decoding, G4). -/
def joinIndices (i0 i1 i2 i3 : Index) : GroupValue :=
  i0.setWidth 24 <<< 18 ||| i1.setWidth 24 <<< 12 ||| i2.setWidth 24 <<< 6 ||| i3.setWidth 24

/-- The three bytes of a group value, the most significant first. -/
def groupBytes (v : GroupValue) : List Byte := [v.extractLsb' 16 8, v.extractLsb' 8 8, v.extractLsb' 0 8]

/-- Standard Base64 decoding: pads only in the last unit, one dropping the group's last byte and two its last two (G4). -/
def decodeStandard : List Byte → Option (List Byte)
  | [] => some []
  | c0 :: c1 :: c2 :: c3 :: rest =>
    match indexOfChar c0, indexOfChar c1, indexOfChar c2, indexOfChar c3 with
    | some i0, some i1, some i2, some i3 =>
      (decodeStandard rest).map fun bs => groupBytes (joinIndices i0 i1 i2 i3) ++ bs
    | some i0, some i1, some i2, none =>
      if c3 = padc ∧ rest = [] then some ((groupBytes (joinIndices i0 i1 i2 0#6)).take 2) else none
    | some i0, some i1, none, none =>
      if c2 = padc ∧ c3 = padc ∧ rest = [] then some ((groupBytes (joinIndices i0 i1 0#6 0#6)).take 1) else none
    | _, _, _, _ => none
  | _ => none

end Sys2Proof.Machine
end

