-- ==== Sys2Proof/Machine/Assembler.lean ====
section
/-! DEFINITION. The spelling of command programs: lines (R85), pseudo-instructions and their expansions (R86) and the
events of test programs (R87). Notation of the spec for the HOST's side, no part of the core (D21; logs 12, 13, 18). -/

namespace Sys2Proof.Machine

/-- A bytes-form (R86). -/
inductive BytesForm where
  /-- `BYTES b1, ..., bk`. -/
  | bytes (bs : List Byte)
  /-- `STR "text"`, as the ASCII codes of its characters. -/
  | str (bs : List Byte)
  /-- `REP k, b`. -/
  | rep (k : Nat) (b : Byte)
  deriving DecidableEq, Repr

/-- One line of a program (R85, R86, R87). -/
inductive Line where
  | byte (b : Byte)
  | flush
  /-- `.word n`: the word itself, the only way to write an illegal one. -/
  | word (w : CmdWord)
  | form (f : BytesForm)
  /-- `SOURCE`: several bytes-forms joined by `+`, then FLUSH; none of them for the empty source. -/
  | source (fs : List BytesForm)
  | reset
  | take
  | werr
  | drain
  deriving DecidableEq, Repr

/-- What a test program does: an event, or DRAIN (R87). -/
inductive TestEvent where
  | event (e : Event)
  /-- As many TAKE events as there are symbols to take. -/
  | drain
  deriving DecidableEq, Repr

/-- The bytes a bytes-form supplies (R86). -/
def BytesForm.data : BytesForm → List Byte
  | .bytes bs => bs
  | .str bs => bs
  | .rep k b => List.replicate k b

/-- Command words as the events of a test program. -/
def commandEvents (ws : List CmdWord) : List TestEvent := ws.map fun w => .event (.cmd w)

/-- The expansion of a line (R85, R86, R87). -/
def Line.expand : Line → List TestEvent
  | .byte b => commandEvents [byteWord b]
  | .flush => commandEvents [flushWord]
  | .word w => commandEvents [w]
  | .form f => commandEvents (f.data.map byteWord)
  | .source fs => commandEvents (sourceWords (fs.flatMap BytesForm.data))
  | .reset => [.event .reset]
  | .take => [.event .take]
  | .werr => [.event .werr]
  | .drain => [.drain]

/-- A token of a line. -/
inductive Token where
  | name (cs : List Char)
  | number (n : Nat)
  /-- A quoted character, as its ASCII code. -/
  | code (b : Byte)
  /-- A quoted text, as its ASCII codes. -/
  | text (bs : List Byte)
  | comma
  | plus
  deriving DecidableEq, Repr

/-- The ASCII code of a character (R85, G3). -/
def asciiCode (c : Char) : Option Byte := if c.toNat < 128 then some (BitVec.ofNat 8 c.toNat) else none

/-- The value of a hexadecimal digit, in either case. -/
def hexDigit (c : Char) : Option Nat :=
  if '0' ≤ c ∧ c ≤ '9' then some (c.toNat - 48)
  else if 'A' ≤ c ∧ c ≤ 'F' then some (c.toNat - 55)
  else if 'a' ≤ c ∧ c ≤ 'f' then some (c.toNat - 87)
  else none

/-- The number spelled by digits in a base, after the number read so far. -/
def digits (base acc : Nat) : List Char → Option Nat
  | [] => some acc
  | c :: cs =>
    match hexDigit c with
    | none => none
    | some d => if d < base then digits base (acc * base + d) cs else none

/-- A word of a line: `0x` and hexadecimal digits, decimal digits, or a name (R85). -/
def wordToken : List Char → Option Token
  | '0' :: 'x' :: c :: cs => (digits 16 0 (c :: cs)).map .number
  | c :: cs =>
    if '0' ≤ c ∧ c ≤ '9' then (digits 10 0 (c :: cs)).map .number else some (.name (c :: cs))
  | [] => none

/-- End the word read so far (in reverse), if there is one, before the later tokens. -/
def endWord (cur : List Char) (rest : Option (List Token)) : Option (List Token) :=
  if cur = [] then rest
  else
    match wordToken cur.reverse, rest with
    | some t, some ts => some (t :: ts)
    | _, _ => none

/-- The tokens of a line; a comment runs from `;` to its end (R85). `cur` is the word read so far, in reverse; `quoted`
is the text read so far, in reverse, inside double quotes. -/
def tokens (cur : List Char) (quoted : Option (List Byte)) : List Char → Option (List Token)
  | [] => if quoted = none then endWord cur (some []) else none
  | c :: cs =>
    match quoted with
    | some t =>
      if c = Char.ofNat 34 then (tokens [] none cs).map fun ts => .text t.reverse :: ts
      else
        match asciiCode c with
        | some b => tokens [] (some (b :: t)) cs
        | none => none
    | none =>
      if c = ';' then endWord cur (some [])
      else if c = ' ' ∨ c = Char.ofNat 9 then endWord cur (tokens [] none cs)
      else if c = ',' then endWord cur ((tokens [] none cs).map fun ts => .comma :: ts)
      else if c = '+' then endWord cur ((tokens [] none cs).map fun ts => .plus :: ts)
      else if c = Char.ofNat 34 then endWord cur (tokens [] (some []) cs)
      else if c = Char.ofNat 39 then
        match cs with
        | x :: q :: rest =>
          if q = Char.ofNat 39 then
            match asciiCode x with
            | some b => endWord cur ((tokens [] none rest).map fun ts => .code b :: ts)
            | none => none
          else none
        | _ => none
      else tokens (c :: cur) none cs

/-- A byte operand: a number 0 to 255 or a quoted character (R85). -/
def byteOperand : Token → Option Byte
  | .number n => if n < 256 then some (BitVec.ofNat 8 n) else none
  | .code b => some b
  | _ => none

/-- One or more byte operands separated by commas (`BYTES` of R86). -/
def byteOperands : List Token → Option (List Byte)
  | [t] => (byteOperand t).map fun b => [b]
  | t :: .comma :: ts =>
    match byteOperand t, byteOperands ts with
    | some b, some bs => some (b :: bs)
    | _, _ => none
  | _ => none

/-- A bytes-form: BYTES, STR or REP (R86). -/
def bytesForm : List Token → Option BytesForm
  | .name n :: ts =>
    if n = "BYTES".toList then (byteOperands ts).map .bytes
    else if n = "STR".toList then
      match ts with
      | [.text bs] => some (.str bs)
      | _ => none
    else if n = "REP".toList then
      match ts with
      | [.number k, .comma, t] => (byteOperand t).map (.rep k)
      | _ => none
    else none
  | _ => none

/-- The bytes-forms joined by `+` (R86); `cur` is the form read so far, in reverse. -/
def bytesForms (cur : List Token) : List Token → Option (List BytesForm)
  | [] => (bytesForm cur.reverse).map fun f => [f]
  | t :: ts =>
    if t = .plus then
      match bytesForm cur.reverse, bytesForms [] ts with
      | some f, some fs => some (f :: fs)
      | _, _ => none
    else bytesForms (t :: cur) ts

/-- A line's tokens as a line (R85, R86, R87). -/
def lineOf : List Token → Option Line
  | [.name n] =>
    if n = "FLUSH".toList then some .flush
    else if n = "RESET".toList then some .reset
    else if n = "TAKE".toList then some .take
    else if n = "WERR".toList then some .werr
    else if n = "DRAIN".toList then some .drain
    else none
  | .name n :: ts =>
    if n = "BYTE".toList then
      match ts with
      | [t] => (byteOperand t).map .byte
      | _ => none
    else if n = ".word".toList then
      match ts with
      | [.number w] => if w < 1024 then some (.word (BitVec.ofNat 10 w)) else none
      | _ => none
    else if n = "SOURCE".toList then
      if ts = [.text []] then some (.source []) else (bytesForms [] ts).map .source
    else (bytesForm (.name n :: ts)).map .form
  | _ => none

/-- What one line of text stands for: nothing for an empty line or a comment; none where the line is no line of R85 to R87. -/
def assembleLine (text : List Char) : Option (List TestEvent) :=
  match tokens [] none text with
  | none => none
  | some [] => some []
  | some (t :: ts) => (lineOf (t :: ts)).map Line.expand

/-- A program, one line after the other (R85). -/
def assemble : List (List Char) → Option (List TestEvent)
  | [] => some []
  | l :: ls =>
    match assembleLine l, assemble ls with
    | some es, some rest => some (es ++ rest)
    | _, _ => none

/-- TAKE for each symbol in OBUF, while OUT_VALID = 1 (R87; log 12). -/
def drainAll (s : State) : State := s.obuf.foldl (fun s _ => takeHead s) s

/-- Perform a test program's events in order; none where the program is ill-formed. R87 calls it so where it writes a command
while IN_READY = 0. For TAKE or WERR while OUT_VALID = 0 the spec says only that the event has no step (R135, R136, U9);
that such a program is ill-formed too is the model's choice (DESIGN CHOICE, log 18). -/
def runTest : List TestEvent → State → Option State
  | [], s => some s
  | .drain :: ts, s => runTest ts (drainAll s)
  | .event e :: ts, s =>
    if s.enabled e then
      match perform e s with
      | .next s' => runTest ts s'
      | _ => none
    else none

end Sys2Proof.Machine
end

