-- ==== Sys2Proof/Safety.lean ====
section
/-! DEFINITION. The terms claims are stated in: the invariant of R41, the end and the observation of a run (R189), and the agreement of two
states on the core's own registers. -/

namespace Sys2Proof.Machine

/-- `k` steps from a state, stopping where a step gives no next state: `Host.Core.run` of the machine, over its own types. -/
def steps : Nat → State → Host.Outcome State Fault Refusal
  | 0, s => .next s
  | k + 1, s =>
    match step s with
    | .next s' => steps k s'
    | .fault r => .fault r
    | .refused r => .refused r

/-- Every register at the value R40 gives it after RESET, with the ROM `lut`, the events `es` pending and an empty run. -/
def fresh (lut : Vector Byte 64) (es : List Event) : State where
  grp0 := 0x00#8
  grp1 := 0x00#8
  gcnt := 0#2
  col := 0#7
  obuf := []
  fault := false
  fcause := 0#2
  lut := lut
  pending := es
  delivered := []
  lastCmd := none

/-- The symbols the core can emit: a ROM entry, the pad, the terminator (R31). -/
def LegalSymbol (lut : Vector Byte 64) (c : Byte) : Prop := c ∈ lut.toList ∨ c = padc ∨ c = lf

/-- The invariant of the core: R41 (a) to (f), (g) in the form that every event keeps, and what makes it inductive. -/
structure CoreInv (s : State) : Prop where
  /-- The ROM is the table of R30. -/
  rom : s.lut = alphabetRom
  /-- R41 (a). -/
  gcnt_legal : s.gcnt ≠ 3#2
  /-- R41 (b). -/
  col_lt : s.col.toNat < Config.lineWidth
  /-- R41 (c). -/
  obuf_bound : s.obuf.length ≤ Config.obufDepth
  /-- R41 (d), R27. -/
  group_zeroed : (s.gcnt = 0#2 → s.grp0 = 0x00#8 ∧ s.grp1 = 0x00#8) ∧ (s.gcnt = 1#2 → s.grp1 = 0x00#8)
  /-- R41 (e). -/
  fault_cause : s.fault = false ↔ s.fcause = 0#2
  /-- R160: code 3 is never written; each cause with the OBUF its event leaves (R104, R136). -/
  cause_legal : s.fcause ≠ 3#2 ∧ (s.fcause = 1#2 → s.obuf ≠ []) ∧ (s.fcause = 2#2 → s.obuf = [])
  /-- R41 (f). -/
  symbols : ∀ c ∈ s.obuf, LegalSymbol s.lut c
  /-- R41 (g) and R140: the column is always a multiple of 4, and a terminator is only ever the last symbol of OBUF. -/
  col_multiple : s.col.toNat % 4 = 0 ∧ lf ∉ s.obuf.dropLast

/-- The invariant of the machine: the core's, and that of the environment's record of the run. -/
structure Inv (s : State) : Prop extends CoreInv s where
  /-- R31 of the delivered stream. -/
  delivered_symbols : ∀ c ∈ s.delivered, LegalSymbol s.lut c
  /-- With no command in the run, or FLUSH the last accepted, no partial group is pending (R189). -/
  flushed : s.lastCmd = none ∨ s.lastCmd = some flushWord → s.gcnt = 0#2

/-- R41 as it stands, (a) to (g). -/
structure ReachableClauses (s : State) : Prop where
  a : s.gcnt = 0#2 ∨ s.gcnt = 1#2 ∨ s.gcnt = 2#2
  b : s.col.toNat < 76
  c : s.obuf.length ≤ 5
  d : (s.gcnt = 0#2 → s.grp0 = 0x00#8 ∧ s.grp1 = 0x00#8) ∧ (s.gcnt = 1#2 → s.grp1 = 0x00#8)
  e : s.fault = false ↔ s.fcause = 0#2
  f : ∀ x ∈ s.obuf, LegalSymbol alphabetRom x
  g : s.obuf = [] ∧ s.fault = false → s.col.toNat % 4 = 0

/-- The next thing the HOST is about to do in this run is no command: it has written its last one (R189; log 1). -/
def State.hostHasWrittenAll (s : State) : Bool :=
  match hostPart s.pending with
  | .cmd _ :: _ => false
  | _ => true

/-- The run ends successfully here (R189). -/
abbrev State.endedSuccessfully (s : State) : Prop :=
  s.hostHasWrittenAll = true ∧ (s.lastCmd = none ∨ s.lastCmd = some flushWord) ∧ s.obuf = [] ∧ s.fault = false

/-- The run ends in fault here (R189). -/
abbrev State.endedInFault (s : State) : Prop := s.fault = true

/-- The observation of a run: its delivered stream together with whether it ended successfully (R189, D22). -/
structure Observation where
  stream : List Byte
  succeeded : Bool
  deriving DecidableEq, Repr

/-- The observation of the run that has come to this state: every run has one, also one that ended in fault, and one that
has not ended, or whose HOST broke R185, is observed as not ended successfully (R189). -/
def State.observation (s : State) : Observation where
  stream := s.delivered
  succeeded := decide s.endedSuccessfully

/-- The HOST keeps its duties of one run over `sources`: RESET first, each source framed by one final FLUSH, no RESET in
between (R183, R184, R185, R190). -/
def HostKeepsDuties (sources : List (List Byte)) (es : List Event) : Prop :=
  hostPart es = .reset :: (runWords sources).map Event.cmd

/-- The characters of a full group read off the bits of its bytes (R131, R133): `b0[7:2]`, `{b0[1:0], b1[7:4]}`,
`{b1[3:0], b2[7:6]}`, `b2[5:0]`. -/
def fullGroupCharacters (lut : Vector Byte 64) (b0 b1 b2 : Byte) : List Byte :=
  [lookup lut (b0.extractLsb' 2 6), lookup lut (b0.extractLsb' 0 2 ++ b1.extractLsb' 4 4),
    lookup lut (b1.extractLsb' 0 4 ++ b2.extractLsb' 6 2), lookup lut (b2.extractLsb' 0 6)]

/-- The characters of a final group of 2 bytes: `b0[7:2]`, `{b0[1:0], b1[7:4]}`, `{b1[3:0], 0b00}`, pad (R131, R133). -/
def twoByteGroupCharacters (lut : Vector Byte 64) (b0 b1 : Byte) : List Byte :=
  [lookup lut (b0.extractLsb' 2 6), lookup lut (b0.extractLsb' 0 2 ++ b1.extractLsb' 4 4),
    lookup lut (b1.extractLsb' 0 4 ++ 0b00#2), padc]

/-- The characters of a final group of 1 byte: `b0[7:2]`, `{b0[1:0], 0b0000}`, pad, pad (R131, R133). -/
def oneByteGroupCharacters (lut : Vector Byte 64) (b0 : Byte) : List Byte :=
  [lookup lut (b0.extractLsb' 2 6), lookup lut (b0.extractLsb' 0 2 ++ 0b0000#4), padc, padc]

/-- The number of pads of a source of `n` bytes (R142 (c)): 0, 2, 1 for `n mod 3` = 0, 1, 2. -/
def padCount (n : Nat) : Nat := if n % 3 = 1 then 2 else if n % 3 = 2 then 1 else 0

/-- The number of characters of a source of `n` bytes, `4 * ceil(n / 3)` (R142 (a)). -/
def characterCount (n : Nat) : Nat := 4 * ((n + 2) / 3)

/-- Two states agree on the core's own state, the eight pieces of R20, whatever their environments. -/
structure CoreAgrees (s t : State) : Prop where
  grp0 : s.grp0 = t.grp0
  grp1 : s.grp1 = t.grp1
  gcnt : s.gcnt = t.gcnt
  col : s.col = t.col
  obuf : s.obuf = t.obuf
  fault : s.fault = t.fault
  fcause : s.fcause = t.fcause
  lut : s.lut = t.lut

end Sys2Proof.Machine
end

