-- ==== Sys2Proof/Certificates/Slice0/Obligations.lean ====
section
/-! DEFINITION. The statements for the provers. -/

open Sys2Proof Sys2Proof.Machine

/-! ## Reset and the signals of the state -/

/-- R40: every register after reset, and the derived outputs. The clause that names `fresh alphabetRom []` says also that
nothing is pending (the model's choice, log 1) and that the delivered stream and the HOST's record are empty (log 4). -/
def Obligations.ResetRegistersAndOutputs : Prop :=
  State.reset.grp0 = 0x00#8 ∧ State.reset.grp1 = 0x00#8 ∧ State.reset.gcnt = 0#2 ∧ State.reset.col = 0#7 ∧
  State.reset.obuf = [] ∧ State.reset.fault = false ∧ State.reset.fcause = 0#2 ∧ State.reset.lut = alphabetRom ∧
  State.reset = fresh alphabetRom [] ∧ State.reset.inReady = true ∧ State.reset.outValid = false ∧ State.reset.faultOut = false ∧
  State.reset.status = 0x00001#32

/-- From R180, R181: RESET in any state, the fault state included, wherever in the list it stands when it is the event to be
performed, behind a waiting event of the SINK too; the ROM is kept. Which pending event is next, and that the others stay
pending, is the model's choice (log 1); that RESET empties the HOST's record of its last command is log 4. -/
def Obligations.ResetEventFromAnyState : Prop :=
  ∀ (s : State) (es : List Event),
    s.enabled .reset = true ∧
    (s.pending = .reset :: es → s.nextPending = some (.reset, es)) ∧
    (s.nextPending = some (.reset, es) →
      ∃ t, step s = .next t ∧ t = fresh s.lut es ∧
        t.inReady = true ∧ t.outValid = false ∧ t.faultOut = false ∧ t.status = 0x00001#32)

/-- R33, R34, R35: the two ready signals and the head symbol, and what they enable; R32: FAULT_OUT is FAULT. -/
def Obligations.ReadyValidAndHeadSymbol : Prop :=
  ∀ (s : State) (w : CmdWord),
    (s.inReady = true ↔ s.fault = false ∧ s.obuf.length = 0) ∧
    (s.outValid = true ↔ s.fault = false ∧ 0 < s.obuf.length) ∧
    s.enabled (.cmd w) = s.inReady ∧ s.enabled .take = s.outValid ∧ s.enabled .werr = s.outValid ∧
    (∀ c rest, s.outValid = true → s.obuf = c :: rest → s.outData = some c) ∧
    (s.outValid = false → s.outData = none) ∧
    s.faultOut = s.fault ∧ ¬ (s.inReady = true ∧ s.outValid = true)

/-- R37: every field of STATUS in every state, the reserved bits, the values that never appear, the value after reset. -/
def Obligations.StatusWordFields : Prop :=
  (∀ s : State,
    s.status.extractLsb' 0 1 = BitVec.ofBool s.inReady ∧ s.status.extractLsb' 1 1 = BitVec.ofBool s.outValid ∧
    s.status.extractLsb' 2 1 = BitVec.ofBool s.fault ∧ s.status.extractLsb' 3 2 = s.fcause ∧
    s.status.extractLsb' 5 2 = s.gcnt ∧ s.status.extractLsb' 7 3 = BitVec.ofNat 3 s.obuf.length ∧
    s.status.extractLsb' 10 7 = s.col ∧ s.status.extractLsb' 17 15 = 0#15 ∧
    (Inv s →
      (s.status.extractLsb' 5 2).toNat ≤ 2 ∧ (s.status.extractLsb' 7 3).toNat = s.obuf.length ∧
      s.obuf.length ≤ 5 ∧ (s.status.extractLsb' 10 7).toNat ≤ 75)) ∧
  State.reset.status = 0x00001#32

/-! ## The datapath -/

/-- R30, R132: the ROM is the alphabet in order, in closed form, with its range boundaries; no step writes it. -/
def Obligations.LutHoldsAlphabetAndIsNeverWritten : Prop :=
  alphabetRom.toList =
    "ABCDEFGHIJKLMNOPQRSTUVWXYZabcdefghijklmnopqrstuvwxyz0123456789+/".toList.map (fun c => BitVec.ofNat 8 c.toNat) ∧
  (∀ i : Index, (lookup alphabetRom i).toNat =
    if i.toNat ≤ 25 then 0x41 + i.toNat else if i.toNat ≤ 51 then 0x47 + i.toNat
    else if i.toNat ≤ 61 then i.toNat - 0x04 else if i.toNat = 62 then 0x2B else 0x2F) ∧
  lookup alphabetRom 0#6 = 0x41#8 ∧ lookup alphabetRom 25#6 = 0x5A#8 ∧ lookup alphabetRom 26#6 = 0x61#8 ∧
  lookup alphabetRom 51#6 = 0x7A#8 ∧ lookup alphabetRom 52#6 = 0x30#8 ∧ lookup alphabetRom 61#6 = 0x39#8 ∧
  lookup alphabetRom 62#6 = 0x2B#8 ∧ lookup alphabetRom 63#6 = 0x2F#8 ∧
  (∀ s t : State, step s = .next t → t.lut = s.lut)

/-- R130, R131, R62: the group value of each kind of group, its slices as numbers, and the slices read off the bytes. -/
def Obligations.GroupValueAndSlices : Prop :=
  (∀ b0 b1 b2 : Byte,
    (group3 b0 b1 b2).toNat = b0.toNat * 65536 + b1.toNat * 256 + b2.toNat ∧
    (group2 b0 b1).toNat = b0.toNat * 65536 + b1.toNat * 256 ∧ (group1 b0).toNat = b0.toNat * 65536) ∧
  (∀ v : GroupValue,
    (slice0 v).toNat = v.toNat / 2 ^ 18 ∧ (slice1 v).toNat = v.toNat / 2 ^ 12 % 64 ∧
    (slice2 v).toNat = v.toNat / 2 ^ 6 % 64 ∧ (slice3 v).toNat = v.toNat % 64) ∧
  (∀ (lut : Vector Byte 64) (b0 b1 b2 : Byte),
    unit3 lut b0 b1 b2 = fullGroupCharacters lut b0 b1 b2 ∧ unit2 lut b0 b1 = twoByteGroupCharacters lut b0 b1 ∧
    unit1 lut b0 = oneByteGroupCharacters lut b0) ∧
  (∀ b0 b1 : Byte, slice3 (group2 b0 b1) = 0#6 ∧ slice2 (group1 b0) = 0#6 ∧ slice3 (group1 b0) = 0#6)

/-- R134: `Emit` within a line and at its 76th character, and the bound on what one command leaves in OBUF. -/
def Obligations.EmitCountsAndTerminatesLines : Prop :=
  (∀ (c : Byte) (s : State),
    (s.col.toNat + 1 = 76 → emit c s = { s with obuf := s.obuf ++ [c] ++ [lf], col := 0#7 }) ∧
    (s.col.toNat + 1 < 76 →
      emit c s = { s with obuf := s.obuf ++ [c], col := BitVec.ofNat 7 (s.col.toNat + 1) })) ∧
  (∀ (i : Instr) (s t : State), s.inReady = true → s.col.toNat < 76 → exec i s = .next t → t.obuf.length ≤ 5)

/-- R139: emitting a list of characters appends what `Wrap` gives and leaves its column. -/
def Obligations.EmittingIsWrapping : Prop :=
  ∀ (cs : List Byte) (s : State), s.col.toNat < 76 →
    emitAll cs s = { s with
      obuf := s.obuf ++ (wrap s.col.toNat cs).1, col := BitVec.ofNat 7 (wrap s.col.toNat cs).2 } ∧
    (wrap s.col.toNat cs).2 < 76

/-! ## The commands -/

/-- R102: BYTE, its encoding and its effect as first, second and third byte of a group, as the whole next state. -/
def Obligations.ByteSuppliesOneByte : Prop :=
  (∀ w : CmdWord, w &&& 0x300#10 = 0x000#10 → decode w = .byte (w.extractLsb' 0 8)) ∧
  (∀ (d : Byte) (s : State), s.inReady = true →
    (s.gcnt = 0#2 → exec (.byte d) s = .next { s with grp0 := d, gcnt := 1#2 }) ∧
    (s.gcnt = 1#2 → exec (.byte d) s = .next { s with grp1 := d, gcnt := 2#2 }) ∧
    (s.gcnt = 2#2 → s.col.toNat < 76 →
      ∃ symbols, symbols = (wrap s.col.toNat (fullGroupCharacters s.lut s.grp0 s.grp1 d)).1 ∧
        symbols.length = (if 72 ≤ s.col.toNat then 5 else 4) ∧
        exec (.byte d) s = .next { s with
          grp0 := 0x00#8, grp1 := 0x00#8, gcnt := 0#2, obuf := symbols,
          col := BitVec.ofNat 7 ((s.col.toNat + 4) % 76) }))

/-- R103: FLUSH, its encoding and its effect with nothing pending, one byte and two bytes, as the whole next state. With
nothing pending it is a no-op in every state in which an empty group is zeroed (R27, an invariant). -/
def Obligations.FlushPadsPartialGroup : Prop :=
  decode 0x100#10 = .flush ∧
  (∀ s : State, s.inReady = true →
    (s.gcnt = 0#2 → exec .flush s = .next { s with grp0 := 0x00#8, grp1 := 0x00#8 }) ∧
    (s.gcnt = 0#2 → s.grp0 = 0x00#8 → s.grp1 = 0x00#8 → exec .flush s = .next s) ∧
    (s.gcnt = 1#2 → s.col.toNat < 76 →
      ∃ symbols, symbols = (wrap s.col.toNat (oneByteGroupCharacters s.lut s.grp0)).1 ∧
        symbols.length = (if 72 ≤ s.col.toNat then 5 else 4) ∧
        exec .flush s = .next { s with
          grp0 := 0x00#8, grp1 := 0x00#8, gcnt := 0#2, obuf := symbols,
          col := BitVec.ofNat 7 ((s.col.toNat + 4) % 76) }) ∧
    (s.gcnt = 2#2 → s.col.toNat < 76 →
      ∃ symbols, symbols = (wrap s.col.toNat (twoByteGroupCharacters s.lut s.grp0 s.grp1)).1 ∧
        symbols.length = (if 72 ≤ s.col.toNat then 5 else 4) ∧
        exec .flush s = .next { s with
          grp0 := 0x00#8, grp1 := 0x00#8, gcnt := 0#2, obuf := symbols,
          col := BitVec.ofNat 7 ((s.col.toNat + 4) % 76) }))

/-- R104, R162: every word that is neither BYTE nor FLUSH, and each illegal row with any DATA, takes the fault
ILLEGAL_CMD precisely: FAULT and FCAUSE and nothing else. -/
def Obligations.IllegalWordsTakePreciseFault : Prop :=
  ∀ s : State, s.inReady = true →
    (∀ w : CmdWord, w.extractLsb' 8 2 ≠ 0b00#2 → w ≠ 0x100#10 →
      exec (decode w) s = .next { s with fault := true, fcause := 2#2 }) ∧
    (∀ d : Byte,
      exec (.illegalFlushData d) s = .next { s with fault := true, fcause := 2#2 } ∧
      exec (.illegalOp10 d) s = .next { s with fault := true, fcause := 2#2 } ∧
      exec (.illegalOp11 d) s = .next { s with fault := true, fcause := 2#2 }) ∧
    ({ s with fault := true, fcause := 2#2 } : State).inReady = false ∧
    ({ s with fault := true, fcause := 2#2 } : State).outValid = false

/-- From R101: a command is accepted exactly while IN_READY = 1; while it waits it stays the HOST's next event, no register
of the core changes but by the SINK, and it raises no fault. The model's choices in it: that `exec` then answers the same
state (log 3), that the HOST's later events, a RESET among them, wait behind the word (log 1), and the HOST's record of
the word (log 4). -/
def Obligations.CommandWaitsUntilReady : Prop :=
  (∀ (i : Instr) (s : State), s.inReady = false → exec i s = .next s) ∧
  (∀ (s : State) (w : CmdWord) (es : List Event), s.pending = .cmd w :: es →
    (s.inReady = true → step s = exec (decode w) { s with pending := es, lastCmd := some w }) ∧
    (∀ t, s.inReady = false → step s = .next t →
      hostPart t.pending = .cmd w :: hostPart es ∧ t.lastCmd = s.lastCmd ∧
      t.grp0 = s.grp0 ∧ t.grp1 = s.grp1 ∧ t.gcnt = s.gcnt ∧ t.col = s.col ∧
      t.delivered ++ t.obuf = s.delivered ++ s.obuf ∧
      (Event.werr ∉ es → t.fault = s.fault ∧ t.fcause = s.fcause)))

/-- What each command leaves unchanged when it gives a next state: the ROM and the environment always, the fault
registers by BYTE and FLUSH, every other register by an illegal word. There is no memory (R60). -/
def Obligations.CommandFrames : Prop :=
  ∀ (i : Instr) (s t : State), exec i s = .next t →
    t.lut = s.lut ∧ t.pending = s.pending ∧ t.delivered = s.delivered ∧ t.lastCmd = s.lastCmd ∧
    (∀ d, i = .byte d ∨ i = .flush → t.fault = s.fault ∧ t.fcause = s.fcause) ∧
    (∀ d, i = .byte d → s.gcnt = 0#2 → t.grp1 = s.grp1 ∧ t.col = s.col ∧ t.obuf = s.obuf) ∧
    (∀ d, i = .byte d → s.gcnt = 1#2 → t.grp0 = s.grp0 ∧ t.col = s.col ∧ t.obuf = s.obuf) ∧
    (i = .flush → s.gcnt = 0#2 → t.gcnt = s.gcnt ∧ t.col = s.col ∧ t.obuf = s.obuf) ∧
    (∀ d, i = .illegalFlushData d ∨ i = .illegalOp10 d ∨ i = .illegalOp11 d →
      t.grp0 = s.grp0 ∧ t.grp1 = s.grp1 ∧ t.gcnt = s.gcnt ∧ t.col = s.col ∧ t.obuf = s.obuf)

/-- R26, R140: after a command OCNT is 0, 4 or 5, the column is a multiple of 4, and a terminator is the fifth symbol. -/
def Obligations.CommandOutputIsWholeUnits : Prop :=
  ∀ (i : Instr) (s t : State), Inv s → s.inReady = true → exec i s = .next t →
    (t.obuf.length = 0 ∨ t.obuf.length = 4 ∨ t.obuf.length = 5) ∧ t.col.toNat % 4 = 0 ∧
    (t.obuf.length = 5 → t.obuf[4]? = some lf ∧ t.col = 0#7 ∧ s.col = 72#7) ∧ lf ∉ t.obuf.take 4 ∧
    (t.obuf.length = 4 → t.col.toNat = s.col.toNat + 4)

/-! ## Decoding -/

/-- R82: every well-formed command has its word back, and every one of the 1024 words its command. -/
def Obligations.DecodeAndEncodeAgree : Prop :=
  (∀ i : Instr, wellFormed i = true → decode (encode i) = i) ∧
  (∀ w : CmdWord, encode (decode w) = w ∧ wellFormed (decode w) = true)

/-- R82: the decode function on all 1024 words, and how many decode as BYTE, FLUSH and ILLEGAL. -/
def Obligations.DecodeMapAndCounts : Prop :=
  (∀ w : CmdWord,
    (w.extractLsb' 8 2 = 0b00#2 → decode w = .byte (w.extractLsb' 0 8)) ∧
    (w.extractLsb' 8 2 = 0b01#2 → w.extractLsb' 0 8 = 0x00#8 → decode w = .flush) ∧
    (w.extractLsb' 8 2 = 0b01#2 → w.extractLsb' 0 8 ≠ 0x00#8 → decode w = .illegalFlushData (w.extractLsb' 0 8)) ∧
    (w.extractLsb' 8 2 = 0b10#2 → decode w = .illegalOp10 (w.extractLsb' 0 8)) ∧
    (w.extractLsb' 8 2 = 0b11#2 → decode w = .illegalOp11 (w.extractLsb' 0 8))) ∧
  ((List.range 1024).countP fun w => match decode (BitVec.ofNat 10 w) with | .byte _ => true | _ => false) = 256 ∧
  ((List.range 1024).countP fun w => match decode (BitVec.ofNat 10 w) with | .flush => true | _ => false) = 1 ∧
  ((List.range 1024).countP fun w =>
    match decode (BitVec.ofNat 10 w) with
    | .illegalFlushData _ => true | .illegalOp10 _ => true | .illegalOp11 _ => true | _ => false) = 767

/-- R82: words written out bit by bit, OP then DATA, decode to their commands. -/
def Obligations.WrittenOutWordsDecode : Prop :=
  decode 0b0001001101#10 = .byte 0x4D#8 ∧ decode 0b0011111111#10 = .byte 0xFF#8 ∧
  decode 0b0100000000#10 = .flush ∧ decode 0b0100000001#10 = .illegalFlushData 0x01#8 ∧
  decode 0b0111111111#10 = .illegalFlushData 0xFF#8 ∧ decode 0b1000000000#10 = .illegalOp10 0x00#8 ∧
  decode 0b1111111111#10 = .illegalOp11 0xFF#8

/-! ## The events -/

/-- A step performs the event that is next, wherever in the list it stands, on the state with that event off the list; a
command, next behind a waiting event of the SINK or at the head with IN_READY = 1, is `exec` of the decoded word once the
HOST has recorded it (R101). The list and which event is next, the record, and `withFetchWord` are the model's (logs 1, 4, 6). -/
def Obligations.StepRunsDecodedCommand : Prop :=
  (∀ (s : State) (e : Event) (rest : List Event), s.nextPending = some (e, rest) →
    step s = perform e { s with pending := rest }) ∧
  (∀ (i : Instr) (s : State) (es : List Event), wellFormed i = true → s.nextPending = some (.cmd (encode i), es) →
    step s = exec i { s with pending := es, lastCmd := some (encode i) }) ∧
  (∀ (i : Instr) (s : State) (es : List Event), wellFormed i = true → s.inReady = true →
    s.pending = .cmd (encode i) :: es → step s = exec i { s with pending := es, lastCmd := some (encode i) }) ∧
  (∀ (w : Nat) (s : State), w < 1024 → s.inReady = true →
    decodeTableWord 16 w = some (decode (BitVec.ofNat 10 w)) ∧
    step (s.withFetchWord 16 w) = exec (decode (BitVec.ofNat 10 w)) { s with lastCmd := some (BitVec.ofNat 10 w) })

/-- R135: TAKE drops and delivers the head symbol and changes nothing else, OCNT falls by one and the last one makes the
core ready; while OUT_VALID = 0 it is not enabled and has no step. -/
def Obligations.TakeDeliversHeadSymbol : Prop :=
  ∀ s : State,
    (∀ c rest, s.fault = false → s.obuf = c :: rest →
      ∃ t, perform .take s = .next t ∧ t = { s with obuf := rest, delivered := s.delivered ++ [c] } ∧
        t.obuf.length + 1 = s.obuf.length ∧ (rest = [] → t.outValid = false ∧ t.inReady = true) ∧
        (∀ es, s.pending = .take :: es → step s = .next { t with pending := es })) ∧
    (s.outValid = false → s.enabled .take = false ∧ perform .take s = .next s)

/-- R136: WERR takes the fault WRITE_ERROR, keeps OBUF and the delivered stream, and while OUT_VALID = 0 is not enabled;
after it nothing changes and nothing is delivered in this run, however many steps are taken. -/
def Obligations.WriteErrorTakesPreciseFault : Prop :=
  ∀ s : State,
    (s.outValid = true →
      ∃ t, perform .werr s = .next t ∧ t = { s with fault := true, fcause := 1#2 } ∧
        t.outValid = false ∧ t.inReady = false ∧
        (∀ k u, Event.reset ∉ s.pending → steps k t = .next u → u = t) ∧
        (∀ es, s.pending = .werr :: es → step s = .next { t with pending := es })) ∧
    (s.outValid = false → s.enabled .werr = false ∧ perform .werr s = .next s)

/-- R163: fault entry writes FAULT and FCAUSE and nothing else, and nothing at all in the fault state. -/
def Obligations.FaultEntryIsPrecise : Prop :=
  ∀ (k : Cause) (s : State),
    (s.fault = false → raiseFault k s = { s with fault := true, fcause := k.code }) ∧
    (s.fault = true → raiseFault k s = s)

/-- R164, R167: in the fault state both ready signals are 0, only RESET is enabled, and a step is RESET or changes
nothing at all, so a symbol left in OBUF or a partial group is never delivered. -/
def Obligations.FaultStateLeftOnlyByReset : Prop :=
  ∀ s : State, s.fault = true →
    s.inReady = false ∧ s.outValid = false ∧ (∀ e, s.enabled e = true ↔ e = .reset) ∧
    (∀ t, step s = .next t →
      t = s ∨ ∃ rest, s.nextPending = some (.reset, rest) ∧
        t = fresh s.lut rest)

/-- R165, R161, R162: a fault comes only from accepting an illegal word, with code 2, or from WERR while OUT_VALID = 1,
with code 1. -/
def Obligations.OnlyTwoCausesOfFault : Prop :=
  ∀ s t : State, s.fault = false → step s = .next t → t.fault = true →
    (∃ w rest, s.nextPending = some (.cmd w, rest) ∧ s.inReady = true ∧ w.extractLsb' 8 2 ≠ 0b00#2 ∧ w ≠ 0x100#10 ∧
      t.fcause = 2#2) ∨
    (∃ rest, s.nextPending = some (.werr, rest) ∧ s.outValid = true ∧ t.fcause = 1#2)

/-- R69: OBUF is first-in first-out: but for RESET, a step keeps every symbol delivered or waiting, in order, adds new
ones only at the end, only by a command, and only when none of an earlier command waits. -/
def Obligations.OutputIsFirstInFirstOut : Prop :=
  ∀ s t : State, step s = .next t →
    (∃ rest, s.nextPending = some (.reset, rest)) ∨
    (s.delivered <+: t.delivered ∧
      ∃ new, t.delivered ++ t.obuf = s.delivered ++ s.obuf ++ new ∧
        (new ≠ [] → s.obuf = [] ∧ t.delivered = s.delivered ∧ ∃ w rest, s.nextPending = some (.cmd w, rest)))

/-- The event a step performs is the first pending one of its agent, and both agents keep their order, so that a RESET
behind a waiting command waits too. This is the model's choice (log 1), made within the total order of events of R12 and
the order of commands of R70. -/
def Obligations.AgentsKeepTheirOrder : Prop :=
  ∀ (s : State) (e : Event) (rest : List Event), s.nextPending = some (e, rest) →
    s.enabled e = true ∧
    (e.agent = .host → hostPart s.pending = e :: hostPart rest ∧ sinkPart s.pending = sinkPart rest) ∧
    (e.agent = .sink → sinkPart s.pending = e :: sinkPart rest ∧ hostPart s.pending = hostPart rest)

/-- R175 as the model takes it: where neither agent's next event is enabled, a step changes nothing (log 2), and only there is
no event performed. That only each agent's next event counts is the model's choice (log 1): a RESET behind the HOST's own
waiting command is not performed, though RESET is enabled in every state. -/
def Obligations.CoreWaitsWithoutEnabledEvent : Prop :=
  ∀ s : State,
    (s.nextPending = none ↔
      (∀ e es, hostPart s.pending = e :: es → s.enabled e = false) ∧
      (∀ e es, sinkPart s.pending = e :: es → s.enabled e = false)) ∧
    (s.nextPending = none → step s = .next s)

/-- No step of the model ends in a fault or a refusal (log 15): every state has a next one. -/
def Obligations.EveryStepAnswersNext : Prop := ∀ s : State, ∃ t, step s = .next t

/-- R20: the core's next state depends on its own eight pieces of state and the event alone, not on the environment's
record. -/
def Obligations.EventsReadOnlyTheCore : Prop :=
  ∀ (e : Event) (s s' t t' : State), CoreAgrees s s' → perform e s = .next t → perform e s' = .next t' →
    CoreAgrees t t'

/-! ## Invariants -/

/-- The invariant holds after reset, whatever the environment is about to do. -/
def Obligations.InvariantAtReset : Prop := ∀ es : List Event, Inv (fresh alphabetRom es)

/-- Every step keeps the invariant, from every state that has it. -/
def Obligations.StepKeepsInvariant : Prop := ∀ s t : State, Inv s → step s = .next t → Inv t

/-- R41 (a) to (g) follow from the invariant, in every state. -/
def Obligations.InvariantImpliesClauses : Prop := ∀ s : State, Inv s → ReachableClauses s

/-- R41: every state reached from reset, whatever HOST and SINK do, satisfies (a) to (g): the corollary, for runs, of the
invariant at reset, of the step that keeps it, and of the clauses it implies. -/
def Obligations.ReachableStatesSatisfyClauses : Prop :=
  ∀ (es : List Event) (k : Nat) (t : State),
    steps k (fresh alphabetRom es) = .next t → ReachableClauses t

/-! ## Sources and runs -/

/-- From R138, R139 and R135: one source, given to the core in any chunks (R66, R188), from any column, in any order of the
HOST's commands and as many TAKEs as it has symbols: the SINK receives `Wrap` of `Encode`, and the FSM ends empty. How
commands and TAKEs interleave in one list is the model's choice (log 1), and `lastCmd` is its record (log 4). -/
def Obligations.SourceIsEncodedAndWrapped : Prop :=
  ∀ (s : State) (d : List Byte) (chunks : List (List Byte)), Inv s → s.inReady = true → s.gcnt = 0#2 →
    d = chunks.flatten →
    hostPart s.pending = ((chunks.flatMap fun chunk => chunk.map byteWord) ++ [flushWord]).map Event.cmd →
    sinkPart s.pending = List.replicate (wrap s.col.toNat (encodeSource d)).1.length Event.take →
    steps s.pending.length s = .next { s with
      pending := [], delivered := s.delivered ++ (wrap s.col.toNat (encodeSource d)).1,
      col := BitVec.ofNat 7 (wrap s.col.toNat (encodeSource d)).2, lastCmd := some flushWord }

/-- From R141 and R189: a run that starts with RESET, in any state of the core, over any number of framed sources, in any
order of the HOST's commands and the TAKEs that drain them: its final state, and its observation, the whole stream and that
it ended successfully. How commands and TAKEs interleave in one list is the model's choice (log 1), and `lastCmd` is its record
(log 4). -/
def Obligations.RunDeliversWrappedEncodings : Prop :=
  ∀ (s : State) (sources : List (List Byte)) (es : List Event), s.lut = alphabetRom →
    s.pending = .reset :: es → HostKeepsDuties sources s.pending →
    sinkPart es = List.replicate (runStream sources).1.length Event.take →
    ∃ t, steps (es.length + 1) s = .next t ∧
      t = { fresh alphabetRom [] with
        delivered := (runStream sources).1
        col := BitVec.ofNat 7 ((sources.map fun d => characterCount d.length).sum % 76)
        lastCmd := if sources = [] then none else some flushWord } ∧
      t.observation = ⟨(runStream sources).1, true⟩

/-- From R136, R164 and R189: a run over framed sources whose SINK takes `n` of the stream's symbols and fails at the next
ends in fault, and its observation is the first `n` symbols and that it did not end successfully, whatever else was still
to come from the SINK. How commands and SINK's events interleave in one list is the model's choice (log 1), and that a step
with nothing enabled keeps the state is log 2. -/
def Obligations.FailedWriteIsObserved : Prop :=
  ∀ (sources : List (List Byte)) (es more : List Event) (n : Nat),
    hostPart es = (runWords sources).map Event.cmd →
    n < (runStream sources).1.length →
    sinkPart es = List.replicate n Event.take ++ Event.werr :: more →
    ∃ t, steps es.length (fresh alphabetRom es) = .next t ∧ t.endedInFault ∧
      t.observation = ⟨(runStream sources).1.take n, false⟩

/-- Whatever the SINK does (write errors among it) and wherever the HOST stops, the SINK has received a prefix of the full run's
stream (R164, R190, D16). That a HOST's abort is the end of its events is the model's reading (log 16), and the list of
events its choice (log 1). -/
def Obligations.DeliveredIsPrefixOfRun : Prop :=
  ∀ (sources : List (List Byte)) (es : List Event) (k : Nat) (t : State),
    hostPart es <+: (runWords sources).map Event.cmd →
    steps k (fresh alphabetRom es) = .next t →
    t.delivered <+: (runStream sources).1

/-- R192, under the SINK's fairness as a premise: with enough TAKE or WERR to come for every symbol, and no RESET, the
core reaches within as many steps as there are events a state with a fault, or with all commands accepted and OBUF empty.
That the other agent goes on while one waits is the model's choice (log 1). -/
def Obligations.FairSinkEndsTheRun : Prop :=
  ∀ s : State, Inv s → Event.reset ∉ s.pending →
    s.obuf.length + 5 * (hostPart s.pending).length ≤ (sinkPart s.pending).length →
    ∃ k t, k ≤ s.pending.length ∧ steps k s = .next t ∧
      (t.endedInFault ∨ (hostPart t.pending = [] ∧ t.obuf = [] ∧ t.fault = false))

/-- R189: what a successful end shows in STATUS, and that it is none with output pending or a fault. -/
def Obligations.SuccessfulEndShowsInStatus : Prop :=
  ∀ s : State, Inv s →
    (s.endedSuccessfully →
      s.status.extractLsb' 0 1 = 1#1 ∧ s.status.extractLsb' 5 2 = 0#2 ∧ s.status.extractLsb' 2 1 = 0#1 ∧
      ¬ s.endedInFault) ∧
    (0 < s.obuf.length → ¬ s.endedSuccessfully) ∧ (s.gcnt ≠ 0#2 → ¬ s.endedSuccessfully)

/-- From R189: the observation of every run, the delivered stream and whether it ended successfully: true exactly at a
successful end, false at an end in fault and with symbols undelivered; and an end stays one, with its observation, for as long
as no RESET is to come. The list of what is to come is the model's (log 1), the step that does nothing is log 2, the HOST's
record of its last command log 4. -/
def Obligations.RunObservation : Prop :=
  ∀ s : State,
    s.observation.stream = s.delivered ∧
    (s.observation.succeeded = true ↔
      (∀ w es, hostPart s.pending ≠ .cmd w :: es) ∧ (s.lastCmd = none ∨ s.lastCmd = some 0x100#10) ∧ s.obuf = [] ∧
      s.fault = false) ∧
    (s.endedInFault → s.observation = ⟨s.delivered, false⟩) ∧
    (0 < s.obuf.length → s.observation = ⟨s.delivered, false⟩) ∧
    (Event.reset ∉ s.pending → s.endedSuccessfully ∨ s.endedInFault →
      ∀ k, ∃ t, steps k s = .next t ∧ t.observation = s.observation ∧
        (t.endedSuccessfully ↔ s.endedSuccessfully) ∧ (t.endedInFault ↔ s.endedInFault))

/-- R142 (a), (b), (c): the length of an encoding, its characters, and where its pads stand. -/
def Obligations.EncodingLengthAndPads : Prop :=
  ∀ d : List Byte,
    (encodeSource d).length = characterCount d.length ∧
    (∀ c ∈ encodeSource d, c ∈ alphabetRom.toList ∨ c = padc) ∧
    (∀ p, (encodeSource d)[p]? = some padc ↔
      p < characterCount d.length ∧ characterCount d.length ≤ p + padCount d.length)

/-- R142 (d), (e): standard decoding recovers every source, so encoding is injective; encoding twice is not encoding
once. Standard decoding is the spec's general knowledge G4 (log 17). -/
def Obligations.StandardDecodingRecoversSource : Prop :=
  (∀ d : List Byte, decodeStandard (encodeSource d) = some d) ∧
  (∀ d d' : List Byte, encodeSource d = encodeSource d' → d = d') ∧
  (∃ d : List Byte, encodeSource (encodeSource d) ≠ encodeSource d)

/-- R143: the stream of a run of `k` characters has `k / 76` terminators, one at each 77th symbol and nowhere else, the
characters in order between them, and `k mod 76` characters on the last line. -/
def Obligations.RunStreamHasFullLines : Prop :=
  ∀ (sources : List (List Byte)) (k : Nat), k = (runCharacters sources).length →
    (runStream sources).1.count lf = k / 76 ∧ (runStream sources).1.length = k + k / 76 ∧
    (∀ p, (runStream sources).1[p]? = some lf ↔ p < k + k / 76 ∧ p % 77 = 76) ∧
    (runStream sources).1.filter (· != lf) = runCharacters sources ∧ (runStream sources).2 = k % 76

/-! ## Programs' spelling -/

/-- R85, R86, R87: lines of text and what they stand for; the pseudo-instructions' expansions for all operands. -/
def Obligations.ProgramLinesExpand : Prop :=
  assembleLine "SOURCE STR \"Man\"".toList = some (commandEvents [0x04D#10, 0x061#10, 0x06E#10, 0x100#10]) ∧
  assembleLine "SOURCE \"\"  ; an empty source".toList = some (commandEvents [0x100#10]) ∧
  assembleLine "BYTE 'M'".toList = some (commandEvents [0x04D#10]) ∧
  assembleLine ".word 0x3FF".toList = some (commandEvents [0x3FF#10]) ∧
  assembleLine "BYTE 256".toList = none ∧
  (∀ (k : Nat) (b : Byte), (Line.form (.rep k b)).expand = List.replicate k (.event (.cmd (0b00#2 ++ b)))) ∧
  (∀ (f g : BytesForm), (Line.source [f, g]).expand =
    (Line.form f).expand ++ (Line.form g).expand ++ [.event (.cmd 0x100#10)]) ∧
  (∀ s : State, s.outValid = true → runTest [.drain] s = some { s with obuf := [], delivered := s.delivered ++ s.obuf }) ∧
  (∀ (s : State) (w : CmdWord), s.inReady = false → runTest [.event (.cmd w)] s = none)
end

