-- ==== Sys2Proof/Laws/Decode.lean ====
section
/-! SUPPORT. The fields of an assembled word, and the decoder on each OP (R80, R82). -/

namespace Sys2Proof

@[simp] theorem opField_assembleWord (op : BitVec 2) (d : Byte) : opField (assembleWord op d) = op := by
  apply BitVec.eq_of_getLsbD_eq
  intro i hi
  simp only [opField, assembleWord, BitVec.getLsbD_extractLsb', BitVec.getLsbD_append, hi]
  have h : ¬ 8 + i < 8 := by omega
  simp [h]

@[simp] theorem dataField_assembleWord (op : BitVec 2) (d : Byte) : dataField (assembleWord op d) = d := by
  apply BitVec.eq_of_getLsbD_eq
  intro i hi
  rw [dataField, assembleWord, BitVec.getLsbD_extractLsb', BitVec.getLsbD_append]
  simp [hi]

/-- A word is its two fields (R80). -/
theorem assembleWord_fields (w : CmdWord) : assembleWord (opField w) (dataField w) = w := by
  apply BitVec.eq_of_getLsbD_eq
  intro i hi
  simp only [opField, assembleWord, dataField, BitVec.getLsbD_extractLsb', BitVec.getLsbD_append]
  by_cases h : i < 8
  · simp [h]
  · have h2 : i - 8 < 2 := by omega
    have h3 : 8 + (i - 8) = i := by omega
    simp [h, h2, h3]

/-- Two bits are one of the four values (the four OP rows of R82). -/
theorem op_cases (op : BitVec 2) : op = 0b00#2 ∨ op = 0b01#2 ∨ op = 0b10#2 ∨ op = 0b11#2 := by
  revert op
  decide

end Sys2Proof
end

