-- ==== Sys2Proof/Laws/State.lean ====
section
/-! SUPPORT. One lemma per field per update of the state, each true by rfl, so that no proof unfolds an update; then the
signals of a state after an update of the environment's fields. -/

namespace Sys2Proof.Machine
@[simp] theorem State.setGroup_grp0 (g0 g1 : Byte) (n : BitVec 2) (s : State) : (s.setGroup g0 g1 n).grp0 = g0 := rfl
@[simp] theorem State.setGroup_grp1 (g0 g1 : Byte) (n : BitVec 2) (s : State) : (s.setGroup g0 g1 n).grp1 = g1 := rfl
@[simp] theorem State.setGroup_gcnt (g0 g1 : Byte) (n : BitVec 2) (s : State) : (s.setGroup g0 g1 n).gcnt = n := rfl
@[simp] theorem State.setGroup_col (g0 g1 : Byte) (n : BitVec 2) (s : State) : (s.setGroup g0 g1 n).col = s.col := rfl
@[simp] theorem State.setGroup_obuf (g0 g1 : Byte) (n : BitVec 2) (s : State) : (s.setGroup g0 g1 n).obuf = s.obuf := rfl
@[simp] theorem State.setGroup_fault (g0 g1 : Byte) (n : BitVec 2) (s : State) : (s.setGroup g0 g1 n).fault = s.fault := rfl
@[simp] theorem State.setGroup_fcause (g0 g1 : Byte) (n : BitVec 2) (s : State) : (s.setGroup g0 g1 n).fcause = s.fcause := rfl
@[simp] theorem State.setGroup_lut (g0 g1 : Byte) (n : BitVec 2) (s : State) : (s.setGroup g0 g1 n).lut = s.lut := rfl
@[simp] theorem State.setGroup_pending (g0 g1 : Byte) (n : BitVec 2) (s : State) : (s.setGroup g0 g1 n).pending = s.pending := rfl
@[simp] theorem State.setGroup_delivered (g0 g1 : Byte) (n : BitVec 2) (s : State) : (s.setGroup g0 g1 n).delivered = s.delivered := rfl
@[simp] theorem State.setGroup_lastCmd (g0 g1 : Byte) (n : BitVec 2) (s : State) : (s.setGroup g0 g1 n).lastCmd = s.lastCmd := rfl
@[simp] theorem State.pushSymbol_grp0 (c : Byte) (s : State) : (s.pushSymbol c).grp0 = s.grp0 := rfl
@[simp] theorem State.pushSymbol_grp1 (c : Byte) (s : State) : (s.pushSymbol c).grp1 = s.grp1 := rfl
@[simp] theorem State.pushSymbol_gcnt (c : Byte) (s : State) : (s.pushSymbol c).gcnt = s.gcnt := rfl
@[simp] theorem State.pushSymbol_col (c : Byte) (s : State) : (s.pushSymbol c).col = s.col := rfl
@[simp] theorem State.pushSymbol_obuf (c : Byte) (s : State) : (s.pushSymbol c).obuf = s.obuf ++ [c] := rfl
@[simp] theorem State.pushSymbol_fault (c : Byte) (s : State) : (s.pushSymbol c).fault = s.fault := rfl
@[simp] theorem State.pushSymbol_fcause (c : Byte) (s : State) : (s.pushSymbol c).fcause = s.fcause := rfl
@[simp] theorem State.pushSymbol_lut (c : Byte) (s : State) : (s.pushSymbol c).lut = s.lut := rfl
@[simp] theorem State.pushSymbol_pending (c : Byte) (s : State) : (s.pushSymbol c).pending = s.pending := rfl
@[simp] theorem State.pushSymbol_delivered (c : Byte) (s : State) : (s.pushSymbol c).delivered = s.delivered := rfl
@[simp] theorem State.pushSymbol_lastCmd (c : Byte) (s : State) : (s.pushSymbol c).lastCmd = s.lastCmd := rfl
@[simp] theorem State.setCol_grp0 (c : BitVec 7) (s : State) : (s.setCol c).grp0 = s.grp0 := rfl
@[simp] theorem State.setCol_grp1 (c : BitVec 7) (s : State) : (s.setCol c).grp1 = s.grp1 := rfl
@[simp] theorem State.setCol_gcnt (c : BitVec 7) (s : State) : (s.setCol c).gcnt = s.gcnt := rfl
@[simp] theorem State.setCol_col (c : BitVec 7) (s : State) : (s.setCol c).col = c := rfl
@[simp] theorem State.setCol_obuf (c : BitVec 7) (s : State) : (s.setCol c).obuf = s.obuf := rfl
@[simp] theorem State.setCol_fault (c : BitVec 7) (s : State) : (s.setCol c).fault = s.fault := rfl
@[simp] theorem State.setCol_fcause (c : BitVec 7) (s : State) : (s.setCol c).fcause = s.fcause := rfl
@[simp] theorem State.setCol_lut (c : BitVec 7) (s : State) : (s.setCol c).lut = s.lut := rfl
@[simp] theorem State.setCol_pending (c : BitVec 7) (s : State) : (s.setCol c).pending = s.pending := rfl
@[simp] theorem State.setCol_delivered (c : BitVec 7) (s : State) : (s.setCol c).delivered = s.delivered := rfl
@[simp] theorem State.setCol_lastCmd (c : BitVec 7) (s : State) : (s.setCol c).lastCmd = s.lastCmd := rfl
@[simp] theorem State.setFault_grp0 (k : BitVec 2) (s : State) : (s.setFault k).grp0 = s.grp0 := rfl
@[simp] theorem State.setFault_grp1 (k : BitVec 2) (s : State) : (s.setFault k).grp1 = s.grp1 := rfl
@[simp] theorem State.setFault_gcnt (k : BitVec 2) (s : State) : (s.setFault k).gcnt = s.gcnt := rfl
@[simp] theorem State.setFault_col (k : BitVec 2) (s : State) : (s.setFault k).col = s.col := rfl
@[simp] theorem State.setFault_obuf (k : BitVec 2) (s : State) : (s.setFault k).obuf = s.obuf := rfl
@[simp] theorem State.setFault_fault (k : BitVec 2) (s : State) : (s.setFault k).fault = true := rfl
@[simp] theorem State.setFault_fcause (k : BitVec 2) (s : State) : (s.setFault k).fcause = k := rfl
@[simp] theorem State.setFault_lut (k : BitVec 2) (s : State) : (s.setFault k).lut = s.lut := rfl
@[simp] theorem State.setFault_pending (k : BitVec 2) (s : State) : (s.setFault k).pending = s.pending := rfl
@[simp] theorem State.setFault_delivered (k : BitVec 2) (s : State) : (s.setFault k).delivered = s.delivered := rfl
@[simp] theorem State.setFault_lastCmd (k : BitVec 2) (s : State) : (s.setFault k).lastCmd = s.lastCmd := rfl
@[simp] theorem State.deliver_grp0 (c : Byte) (rest : List Byte) (s : State) : (s.deliver c rest).grp0 = s.grp0 := rfl
@[simp] theorem State.deliver_grp1 (c : Byte) (rest : List Byte) (s : State) : (s.deliver c rest).grp1 = s.grp1 := rfl
@[simp] theorem State.deliver_gcnt (c : Byte) (rest : List Byte) (s : State) : (s.deliver c rest).gcnt = s.gcnt := rfl
@[simp] theorem State.deliver_col (c : Byte) (rest : List Byte) (s : State) : (s.deliver c rest).col = s.col := rfl
@[simp] theorem State.deliver_obuf (c : Byte) (rest : List Byte) (s : State) : (s.deliver c rest).obuf = rest := rfl
@[simp] theorem State.deliver_fault (c : Byte) (rest : List Byte) (s : State) : (s.deliver c rest).fault = s.fault := rfl
@[simp] theorem State.deliver_fcause (c : Byte) (rest : List Byte) (s : State) : (s.deliver c rest).fcause = s.fcause := rfl
@[simp] theorem State.deliver_lut (c : Byte) (rest : List Byte) (s : State) : (s.deliver c rest).lut = s.lut := rfl
@[simp] theorem State.deliver_pending (c : Byte) (rest : List Byte) (s : State) : (s.deliver c rest).pending = s.pending := rfl
@[simp] theorem State.deliver_delivered (c : Byte) (rest : List Byte) (s : State) : (s.deliver c rest).delivered = s.delivered ++ [c] := rfl
@[simp] theorem State.deliver_lastCmd (c : Byte) (rest : List Byte) (s : State) : (s.deliver c rest).lastCmd = s.lastCmd := rfl
@[simp] theorem State.setPending_grp0 (es : List Event) (s : State) : (s.setPending es).grp0 = s.grp0 := rfl
@[simp] theorem State.setPending_grp1 (es : List Event) (s : State) : (s.setPending es).grp1 = s.grp1 := rfl
@[simp] theorem State.setPending_gcnt (es : List Event) (s : State) : (s.setPending es).gcnt = s.gcnt := rfl
@[simp] theorem State.setPending_col (es : List Event) (s : State) : (s.setPending es).col = s.col := rfl
@[simp] theorem State.setPending_obuf (es : List Event) (s : State) : (s.setPending es).obuf = s.obuf := rfl
@[simp] theorem State.setPending_fault (es : List Event) (s : State) : (s.setPending es).fault = s.fault := rfl
@[simp] theorem State.setPending_fcause (es : List Event) (s : State) : (s.setPending es).fcause = s.fcause := rfl
@[simp] theorem State.setPending_lut (es : List Event) (s : State) : (s.setPending es).lut = s.lut := rfl
@[simp] theorem State.setPending_pending (es : List Event) (s : State) : (s.setPending es).pending = es := rfl
@[simp] theorem State.setPending_delivered (es : List Event) (s : State) : (s.setPending es).delivered = s.delivered := rfl
@[simp] theorem State.setPending_lastCmd (es : List Event) (s : State) : (s.setPending es).lastCmd = s.lastCmd := rfl
@[simp] theorem State.recordCmd_grp0 (w : CmdWord) (s : State) : (s.recordCmd w).grp0 = s.grp0 := rfl
@[simp] theorem State.recordCmd_grp1 (w : CmdWord) (s : State) : (s.recordCmd w).grp1 = s.grp1 := rfl
@[simp] theorem State.recordCmd_gcnt (w : CmdWord) (s : State) : (s.recordCmd w).gcnt = s.gcnt := rfl
@[simp] theorem State.recordCmd_col (w : CmdWord) (s : State) : (s.recordCmd w).col = s.col := rfl
@[simp] theorem State.recordCmd_obuf (w : CmdWord) (s : State) : (s.recordCmd w).obuf = s.obuf := rfl
@[simp] theorem State.recordCmd_fault (w : CmdWord) (s : State) : (s.recordCmd w).fault = s.fault := rfl
@[simp] theorem State.recordCmd_fcause (w : CmdWord) (s : State) : (s.recordCmd w).fcause = s.fcause := rfl
@[simp] theorem State.recordCmd_lut (w : CmdWord) (s : State) : (s.recordCmd w).lut = s.lut := rfl
@[simp] theorem State.recordCmd_pending (w : CmdWord) (s : State) : (s.recordCmd w).pending = s.pending := rfl
@[simp] theorem State.recordCmd_delivered (w : CmdWord) (s : State) : (s.recordCmd w).delivered = s.delivered := rfl
@[simp] theorem State.recordCmd_lastCmd (w : CmdWord) (s : State) : (s.recordCmd w).lastCmd = some w := rfl
@[simp] theorem resetCore_grp0 (s : State) : (resetCore s).grp0 = State.reset.grp0 := rfl
@[simp] theorem resetCore_grp1 (s : State) : (resetCore s).grp1 = State.reset.grp1 := rfl
@[simp] theorem resetCore_gcnt (s : State) : (resetCore s).gcnt = State.reset.gcnt := rfl
@[simp] theorem resetCore_col (s : State) : (resetCore s).col = State.reset.col := rfl
@[simp] theorem resetCore_obuf (s : State) : (resetCore s).obuf = State.reset.obuf := rfl
@[simp] theorem resetCore_fault (s : State) : (resetCore s).fault = State.reset.fault := rfl
@[simp] theorem resetCore_fcause (s : State) : (resetCore s).fcause = State.reset.fcause := rfl
@[simp] theorem resetCore_lut (s : State) : (resetCore s).lut = s.lut := rfl
@[simp] theorem resetCore_pending (s : State) : (resetCore s).pending = s.pending := rfl
@[simp] theorem resetCore_delivered (s : State) : (resetCore s).delivered = State.reset.delivered := rfl
@[simp] theorem resetCore_lastCmd (s : State) : (resetCore s).lastCmd = State.reset.lastCmd := rfl
@[simp] theorem clearGroup_grp0 (s : State) : (clearGroup s).grp0 = 0x00#8 := rfl
@[simp] theorem clearGroup_grp1 (s : State) : (clearGroup s).grp1 = 0x00#8 := rfl
@[simp] theorem clearGroup_gcnt (s : State) : (clearGroup s).gcnt = 0#2 := rfl
@[simp] theorem clearGroup_col (s : State) : (clearGroup s).col = s.col := rfl
@[simp] theorem clearGroup_obuf (s : State) : (clearGroup s).obuf = s.obuf := rfl
@[simp] theorem clearGroup_fault (s : State) : (clearGroup s).fault = s.fault := rfl
@[simp] theorem clearGroup_fcause (s : State) : (clearGroup s).fcause = s.fcause := rfl
@[simp] theorem clearGroup_lut (s : State) : (clearGroup s).lut = s.lut := rfl
@[simp] theorem clearGroup_pending (s : State) : (clearGroup s).pending = s.pending := rfl
@[simp] theorem clearGroup_delivered (s : State) : (clearGroup s).delivered = s.delivered := rfl
@[simp] theorem clearGroup_lastCmd (s : State) : (clearGroup s).lastCmd = s.lastCmd := rfl
@[simp] theorem State.reset_grp0 : State.reset.grp0 = 0x00#8 := rfl
@[simp] theorem State.reset_grp1 : State.reset.grp1 = 0x00#8 := rfl
@[simp] theorem State.reset_gcnt : State.reset.gcnt = 0#2 := rfl
@[simp] theorem State.reset_col : State.reset.col = 0#7 := rfl
@[simp] theorem State.reset_obuf : State.reset.obuf = [] := rfl
@[simp] theorem State.reset_fault : State.reset.fault = false := rfl
@[simp] theorem State.reset_fcause : State.reset.fcause = 0#2 := rfl
@[simp] theorem State.reset_lut : State.reset.lut = alphabetRom := rfl
@[simp] theorem State.reset_pending : State.reset.pending = [] := rfl
@[simp] theorem State.reset_delivered : State.reset.delivered = [] := rfl
@[simp] theorem State.reset_lastCmd : State.reset.lastCmd = none := rfl
@[simp] theorem State.setPending_inReady (es : List Event) (s : State) : (s.setPending es).inReady = s.inReady := rfl
@[simp] theorem State.recordCmd_inReady (w : CmdWord) (s : State) : (s.recordCmd w).inReady = s.inReady := rfl
@[simp] theorem State.setPending_outValid (es : List Event) (s : State) : (s.setPending es).outValid = s.outValid := rfl
@[simp] theorem State.recordCmd_outValid (w : CmdWord) (s : State) : (s.recordCmd w).outValid = s.outValid := rfl

/-- IN_READY in terms of the registers (R33). -/
theorem State.inReady_iff (s : State) : s.inReady = true ↔ s.fault = false ∧ s.obuf = [] := by
  simp [State.inReady]

/-- OUT_VALID in terms of the registers (R34). -/
theorem State.outValid_iff (s : State) : s.outValid = true ↔ s.fault = false ∧ s.obuf ≠ [] := by
  simp [State.outValid]

end Sys2Proof.Machine
end

