-- ==== Sys2Proof/Laws/Ops.lean ====
section
/-! SUPPORT. What each shared operation can do, said once: the formatter, fault entry, acceptance. -/

namespace Sys2Proof.Machine

/-- The column comparison of `Emit` in 7 bits is the comparison of the numbers (R137). -/
theorem col_add_one_eq_iff (c : BitVec 7) : c + 1#7 = BitVec.ofNat 7 Config.lineWidth ↔ c.toNat + 1 = Config.lineWidth := by
  simp only [Config.lineWidth]
  bv_omega

/-- `Emit` of the 76th character of a line (R134). -/
theorem emit_completes_line (c : Byte) (s : State) (h : s.col.toNat + 1 = Config.lineWidth) :
    emit c s = { s with obuf := s.obuf ++ [c, lf], col := 0#7 } := by
  simp [emit, (col_add_one_eq_iff s.col).2 h, State.pushSymbol, State.setCol]

/-- `Emit` of any other character (R134). -/
theorem emit_within_line (c : Byte) (s : State) (h : s.col.toNat + 1 ≠ Config.lineWidth) :
    emit c s = { s with obuf := s.obuf ++ [c], col := s.col + 1#7 } := by
  simp [emit, mt (col_add_one_eq_iff s.col).1 h, State.pushSymbol, State.setCol]

/-! `Emit` writes OBUF and COL and nothing else. -/

@[simp] theorem emit_grp0 (c : Byte) (s : State) : (emit c s).grp0 = s.grp0 := by unfold emit; split <;> rfl
@[simp] theorem emit_grp1 (c : Byte) (s : State) : (emit c s).grp1 = s.grp1 := by unfold emit; split <;> rfl
@[simp] theorem emit_gcnt (c : Byte) (s : State) : (emit c s).gcnt = s.gcnt := by unfold emit; split <;> rfl
@[simp] theorem emit_fault (c : Byte) (s : State) : (emit c s).fault = s.fault := by unfold emit; split <;> rfl
@[simp] theorem emit_fcause (c : Byte) (s : State) : (emit c s).fcause = s.fcause := by unfold emit; split <;> rfl
@[simp] theorem emit_lut (c : Byte) (s : State) : (emit c s).lut = s.lut := by unfold emit; split <;> rfl
@[simp] theorem emit_pending (c : Byte) (s : State) : (emit c s).pending = s.pending := by unfold emit; split <;> rfl
@[simp] theorem emit_delivered (c : Byte) (s : State) : (emit c s).delivered = s.delivered := by unfold emit; split <;> rfl
@[simp] theorem emit_lastCmd (c : Byte) (s : State) : (emit c s).lastCmd = s.lastCmd := by unfold emit; split <;> rfl

/-! Emitting a list of characters writes OBUF and COL and nothing else. -/

@[simp] theorem emitAll_grp0 (cs : List Byte) (s : State) : (emitAll cs s).grp0 = s.grp0 := by
  induction cs generalizing s with
  | nil => rfl
  | cons c cs ih => simp [emitAll, ih]

@[simp] theorem emitAll_grp1 (cs : List Byte) (s : State) : (emitAll cs s).grp1 = s.grp1 := by
  induction cs generalizing s with
  | nil => rfl
  | cons c cs ih => simp [emitAll, ih]

@[simp] theorem emitAll_gcnt (cs : List Byte) (s : State) : (emitAll cs s).gcnt = s.gcnt := by
  induction cs generalizing s with
  | nil => rfl
  | cons c cs ih => simp [emitAll, ih]

@[simp] theorem emitAll_fault (cs : List Byte) (s : State) : (emitAll cs s).fault = s.fault := by
  induction cs generalizing s with
  | nil => rfl
  | cons c cs ih => simp [emitAll, ih]

@[simp] theorem emitAll_fcause (cs : List Byte) (s : State) : (emitAll cs s).fcause = s.fcause := by
  induction cs generalizing s with
  | nil => rfl
  | cons c cs ih => simp [emitAll, ih]

@[simp] theorem emitAll_lut (cs : List Byte) (s : State) : (emitAll cs s).lut = s.lut := by
  induction cs generalizing s with
  | nil => rfl
  | cons c cs ih => simp [emitAll, ih]

@[simp] theorem emitAll_pending (cs : List Byte) (s : State) : (emitAll cs s).pending = s.pending := by
  induction cs generalizing s with
  | nil => rfl
  | cons c cs ih => simp [emitAll, ih]

@[simp] theorem emitAll_delivered (cs : List Byte) (s : State) : (emitAll cs s).delivered = s.delivered := by
  induction cs generalizing s with
  | nil => rfl
  | cons c cs ih => simp [emitAll, ih]

@[simp] theorem emitAll_lastCmd (cs : List Byte) (s : State) : (emitAll cs s).lastCmd = s.lastCmd := by
  induction cs generalizing s with
  | nil => rfl
  | cons c cs ih => simp [emitAll, ih]

/-- Line wrap of two character lists one after the other. -/
theorem wrap_append (n : Nat) (t u : List Byte) :
    wrap n (t ++ u) = ((wrap n t).1 ++ (wrap (wrap n t).2 u).1, (wrap (wrap n t).2 u).2) := by
  induction t generalizing n with
  | nil => rfl
  | cons x t ih =>
    rw [List.cons_append, wrap, wrap]
    split <;> simp [ih]

/-- Line wrap keeps the column on the line. -/
theorem wrap_col_lt (n : Nat) (t : List Byte) (h : n < Config.lineWidth) : (wrap n t).2 < Config.lineWidth := by
  induction t generalizing n with
  | nil => exact h
  | cons x t ih =>
    rw [wrap]
    split
    · exact ih 0 (by simp [Config.lineWidth])
    · exact ih (n + 1) (by omega)

/-- Fault entry from a state without a fault (R163). -/
theorem raiseFault_of_running (k : Cause) (s : State) (h : s.fault = false) : raiseFault k s = s.setFault k.code := by
  simp [raiseFault, h]

/-- Fault entry in the fault state changes nothing: the first cause is kept (R163, R166). -/
theorem raiseFault_of_faulted (k : Cause) (s : State) (h : s.fault = true) : raiseFault k s = s := by
  simp [raiseFault, h]

/-- A command accepted (R101). -/
theorem whenReady_of_ready (s : State) (k : State → State) (h : s.inReady = true) : whenReady s k = .next (k s) := by
  simp [whenReady, h]

/-- A command that waits (R101). -/
theorem whenReady_of_not_ready (s : State) (k : State → State) (h : s.inReady = false) : whenReady s k = .next s := by
  simp [whenReady, h]

end Sys2Proof.Machine
end

