-- ==== Sys2Proof/Laws/Events.lean ====
section
/-! SUPPORT. What an event and a step can do, said once: each event answers a next state, and the choice among the pending
events. -/

namespace Sys2Proof.Machine

/-- Every command answers a next state: no command ends a run of the model. -/
theorem exec_next (i : Instr) (s : State) : ∃ t, exec i s = .next t := by
  cases i <;> exact ⟨_, rfl⟩

/-- Every event answers a next state. -/
theorem perform_next (e : Event) (s : State) : ∃ t, perform e s = .next t := by
  cases e with
  | cmd w => exact exec_next _ _
  | take => exact ⟨_, rfl⟩
  | werr => exact ⟨_, rfl⟩
  | reset => exact ⟨_, rfl⟩

/-- TAKE with a symbol to take (R135). -/
theorem takeHead_of_valid (s : State) (c : Byte) (rest : List Byte) (hf : s.fault = false) (hb : s.obuf = c :: rest) :
    takeHead s = s.deliver c rest := by
  simp [takeHead, State.outValid, hf, hb]

/-- TAKE with none: no step (R135). -/
theorem takeHead_of_not_valid (s : State) (h : s.outValid = false) : takeHead s = s := by
  unfold takeHead
  split
  · rfl
  · simp [h]

/-- WERR with a symbol offered (R136). -/
theorem writeFails_of_valid (s : State) (h : s.outValid = true) : writeFails s = s.setFault Cause.writeError.code := by
  simp [writeFails, h, raiseFault_of_running _ s ((State.outValid_iff s).1 h).1]

/-- WERR with none: no step (R136). -/
theorem writeFails_of_not_valid (s : State) (h : s.outValid = false) : writeFails s = s := by
  simp [writeFails, h]

/-- The chosen event is enabled. -/
theorem nextEvent_enabled (on : Event → Bool) (w : Option Agent) (es : List Event) {e : Event} {rest : List Event}
    (h : nextEvent on w es = some (e, rest)) : on e = true := by
  induction es generalizing w rest with
  | nil => cases w <;> simp [nextEvent] at h
  | cons x es ih =>
    cases w with
    | none =>
      simp only [nextEvent] at h
      split at h
      · simp_all
      · obtain ⟨⟨e', r'⟩, h1, h2⟩ := Option.map_eq_some_iff.1 h
        simp only [Prod.mk.injEq] at h2
        exact ih _ (h2.1 ▸ h1)
    | some a =>
      simp only [nextEvent] at h
      split at h
      · obtain ⟨⟨e', r'⟩, h1, h2⟩ := Option.map_eq_some_iff.1 h
        simp only [Prod.mk.injEq] at h2
        exact ih _ (h2.1 ▸ h1)
      · split at h
        · simp_all
        · simp at h

/-- The head of what is pending, if enabled, is the event performed. -/
theorem State.nextPending_head (s : State) (e : Event) (es : List Event) (hp : s.pending = e :: es)
    (he : s.enabled e = true) : s.nextPending = some (e, es) := by
  simp [State.nextPending, hp, nextEvent, he]

/-- A step that has an event to perform performs it. -/
theorem step_of_next (s : State) (e : Event) (rest : List Event) (h : s.nextPending = some (e, rest)) :
    step s = perform e (s.setPending rest) := by
  simp [step, stepEvent, h]

/-- A step with none keeps the state (R175). -/
theorem step_of_none (s : State) (h : s.nextPending = none) : step s = .next s := by
  simp [step, stepEvent, h]

/-- What a step can do: nothing, where no event is enabled, or one enabled event (R8, R175). -/
theorem step_cases (s t : State) (h : step s = .next t) :
    (s.nextPending = none ∧ t = s) ∨
    ∃ e rest, s.nextPending = some (e, rest) ∧ s.enabled e = true ∧ perform e (s.setPending rest) = .next t := by
  cases hn : s.nextPending with
  | none =>
    rw [step_of_none s hn] at h
    cases h
    exact .inl ⟨rfl, rfl⟩
  | some p =>
    obtain ⟨e, rest⟩ := p
    rw [step_of_next s e rest hn] at h
    exact .inr ⟨e, rest, rfl, nextEvent_enabled _ _ _ hn, h⟩

end Sys2Proof.Machine
end

