-- ==== Sys2Proof/Laws/PerInstr.lean ====
section
/-! SUPPORT. The family EncodingRow: the word of a command has the match and mask bits of its row of the opcode table
(R82), said of each constructor. -/

namespace Sys2Proof.Laws.EncodingRow

/-- The word of `i`, under the mask of its row, is the match of its row. -/
def Statement (i : Instr) : Prop := encode i &&& (encodingRow i).2 = (encodingRow i).1

/-- DATA lies outside the mask 0x300, OP inside it (R80, R82). -/
theorem assembleWord_and_mask (op : BitVec 2) (d : Byte) :
    assembleWord op d &&& 0x300#10 = assembleWord op 0x00#8 := by
  have hm : (0x300#10 : CmdWord) = 0b11#2 ++ 0x00#8 := rfl
  apply BitVec.eq_of_getLsbD_eq
  intro i hi
  rw [hm, assembleWord, assembleWord, BitVec.getLsbD_and, BitVec.getLsbD_append, BitVec.getLsbD_append,
    BitVec.getLsbD_append]
  by_cases h : i < 8
  · simp [h]
  · obtain rfl | rfl : i = 8 ∨ i = 9 := by omega
    all_goals simp

theorem byte (d : Byte) : Statement (.byte d) := assembleWord_and_mask 0b00#2 d
theorem flush : Statement .flush := by unfold Statement; decide
theorem illegalFlushData (d : Byte) : Statement (.illegalFlushData d) := assembleWord_and_mask 0b01#2 d
theorem illegalOp10 (d : Byte) : Statement (.illegalOp10 d) := assembleWord_and_mask 0b10#2 d
theorem illegalOp11 (d : Byte) : Statement (.illegalOp11 d) := assembleWord_and_mask 0b11#2 d

end Sys2Proof.Laws.EncodingRow
end

