-- ==== Sys2Proof/Laws/Steps.lean ====
section
/-! SUPPORT. The fields of a fresh run, and of a run's observation. Runs of several steps: the one unfolding, and that `steps` is the host's run of the machine. -/

namespace Sys2Proof.Machine

@[simp] theorem fresh_grp0 (lut : Vector Byte 64) (es : List Event) : (fresh lut es).grp0 = 0x00#8 := rfl
@[simp] theorem fresh_grp1 (lut : Vector Byte 64) (es : List Event) : (fresh lut es).grp1 = 0x00#8 := rfl
@[simp] theorem fresh_gcnt (lut : Vector Byte 64) (es : List Event) : (fresh lut es).gcnt = 0#2 := rfl
@[simp] theorem fresh_col (lut : Vector Byte 64) (es : List Event) : (fresh lut es).col = 0#7 := rfl
@[simp] theorem fresh_obuf (lut : Vector Byte 64) (es : List Event) : (fresh lut es).obuf = [] := rfl
@[simp] theorem fresh_fault (lut : Vector Byte 64) (es : List Event) : (fresh lut es).fault = false := rfl
@[simp] theorem fresh_fcause (lut : Vector Byte 64) (es : List Event) : (fresh lut es).fcause = 0#2 := rfl
@[simp] theorem fresh_lut (lut : Vector Byte 64) (es : List Event) : (fresh lut es).lut = lut := rfl
@[simp] theorem fresh_pending (lut : Vector Byte 64) (es : List Event) : (fresh lut es).pending = es := rfl
@[simp] theorem fresh_delivered (lut : Vector Byte 64) (es : List Event) : (fresh lut es).delivered = [] := rfl
@[simp] theorem fresh_lastCmd (lut : Vector Byte 64) (es : List Event) : (fresh lut es).lastCmd = none := rfl

/-- When the HOST has written its last command of the run. -/
theorem State.hostHasWrittenAll_iff (s : State) :
    s.hostHasWrittenAll = true ↔ ∀ w es, hostPart s.pending ≠ .cmd w :: es := by
  unfold State.hostHasWrittenAll
  split <;> simp_all

@[simp] theorem State.observation_stream (s : State) : s.observation.stream = s.delivered := rfl

@[simp] theorem State.observation_succeeded_iff (s : State) : s.observation.succeeded = true ↔ s.endedSuccessfully :=
  decide_eq_true_iff

/-- A run that ended in fault is observed as not successful. -/
theorem State.observation_of_fault (s : State) (h : s.endedInFault) : s.observation = ⟨s.delivered, false⟩ := by
  simp [State.observation, State.endedSuccessfully, h]

@[simp] theorem steps_zero (s : State) : steps 0 s = .next s := rfl

/-- A run, one step unfolded. -/
theorem steps_succ (k : Nat) (s : State) : steps (k + 1) s =
    match step s with
    | .next s' => steps k s'
    | .fault r => .fault r
    | .refused r => .refused r := rfl

/-- A run whose first step is known. -/
theorem steps_succ_of_next (k : Nat) (s s' : State) (h : step s = .next s') : steps (k + 1) s = steps k s' := by
  rw [steps_succ, h]

/-- The host's run, one step unfolded. -/
theorem core_run_succ (M : Host.Core) (k : Nat) (s : M.State) : M.run (k + 1) s =
    match M.step s with
    | .next s' => M.run k s'
    | .fault r => .fault r
    | .refused r => .refused r := rfl

/-- `steps` is `Host.Core.run` of the machine. -/
theorem core_run_eq_steps (k : Nat) (s : State) : Host.Core.run Sys2Proof.core k s = steps k s := by
  induction k generalizing s with
  | zero => rfl
  | succ k ih =>
    refine (core_run_succ Sys2Proof.core k s).trans ?_
    rw [steps_succ]
    cases h : step s with
    | next s' =>
      have hc : Sys2Proof.core.step s = .next s' := h
      rw [hc]
      exact ih s'
    | fault r => exact nomatch r
    | refused r =>
      have hc : Sys2Proof.core.step s = .refused r := h
      rw [hc]
      rfl

/-- One step, then the rest: two runs one after the other are one run. -/
theorem steps_add (j k : Nat) (s t : State) (h : steps j s = .next t) : steps (j + k) s = steps k t := by
  induction j generalizing s with
  | zero =>
    simp only [steps_zero, Host.Outcome.next.injEq] at h
    rw [h, Nat.zero_add]
  | succ j ih =>
    have hj : j + 1 + k = j + k + 1 := by omega
    rw [hj, steps_succ]
    rw [steps_succ] at h
    cases hs : step s with
    | next s' =>
      rw [hs] at h
      exact ih s' h
    | fault r => rw [hs] at h; cases h
    | refused r => rw [hs] at h; cases h

end Sys2Proof.Machine
end

