-- ==== Sys2Proof/Tests/Slice0.lean ====
section
/-! SUPPORT. Tests, each on one step, with the results the spec writes down (spec/95_test_vectors.md, named at each), the
check of WellFormed, and a witness for the hypotheses of each statement. -/

namespace Sys2Proof.Machine.Tests

/-- A core between commands: a group of GCNT, GRP0, GRP1, a column, nothing in OBUF. -/
def between (n : BitVec 2) (g0 g1 : Byte) (c : BitVec 7) : State :=
  { fresh alphabetRom [] with gcnt := n, grp0 := g0, grp1 := g1, col := c }

/-- A core with symbols waiting. -/
def offering (b : List Byte) (c : BitVec 7) : State := { fresh alphabetRom [] with obuf := b, col := c }

/-- A core in the fault state with symbols left. -/
def faulted : State := { offering [0x46, 0x75] 4 with fault := true, fcause := 1 }

/-- STATUS and OBUF of a next state. -/
def seen : Host.Outcome State Fault Refusal → Option (BitVec 32 × List Byte)
  | .next s => some (s.status, s.obuf)
  | _ => none

/-- The group registers of a next state. -/
def group : Host.Outcome State Fault Refusal → Option (Byte × Byte)
  | .next s => some (s.grp0, s.grp1)
  | _ => none

/-- The delivered stream of a next state. -/
def stream : Host.Outcome State Fault Refusal → Option (List Byte)
  | .next s => some s.delivered
  | _ => none

/-! ## WellFormed and decoding -/

theorem test_wellFormed_refuses_zero_data : wellFormed (.illegalFlushData 0x00) = false := by decide

/-! Words of section 2.1, OP then DATA. -/
theorem test_decode_byte : decode 0b0001001101 = .byte 0x4D := by decide
theorem test_decode_flush : decode 0b0100000000 = .flush := by decide
theorem test_decode_flush_data : decode 0b0100000001 = .illegalFlushData 0x01 := by decide
theorem test_decode_op10 : decode 0b1011111111 = .illegalOp10 0xFF := by decide
theorem test_decode_op11 : decode 0b1100000000 = .illegalOp11 0x00 := by decide
theorem test_decodeTableWord_too_wide : decodeTableWord 16 0x400 = none := by decide

/-! ## Commands: sections 2.2, 2.3, 2.4 -/

theorem test_byte_second : group (exec (.byte 0x61) (between 1 0x4D 0x00 0)) = some (0x4D, 0x61) := by decide
theorem test_byte_completes_line :
    seen (exec (.byte 0x41) (between 2 0x41 0x41 72)) = some (0x00282, [0x51, 0x55, 0x46, 0x42, 0x0A]) := by decide
theorem test_flush_two_bytes :
    seen (exec .flush (between 2 0xFB 0xFF 0)) = some (0x01202, [0x2B, 0x2F, 0x38, 0x3D]) := by decide
theorem test_flush_completes_line :
    seen (exec .flush (between 1 0x41 0x00 72)) = some (0x00282, [0x51, 0x51, 0x3D, 0x3D, 0x0A]) := by decide
theorem test_illegalFlushData : seen (exec (decode 0x101) (between 1 0x4D 0x00 0)) = some (0x00034, []) := by decide
theorem test_illegalOp10 : seen (exec (decode 0x200) (between 0 0x00 0x00 0)) = some (0x00014, []) := by decide
theorem test_illegalOp11 : seen (exec (decode 0x3FF) (between 2 0x4D 0x61 8)) = some (0x02054, []) := by decide
theorem test_illegalOp11_keeps_group : group (exec (decode 0x3FF) (between 2 0x4D 0x61 8)) = some (0x4D, 0x61) := by decide

/-! ## Slices and the ROM: section 2.5 -/

theorem test_unit_range_boundaries : unit3 alphabetRom 0x65 0xAC 0xF4 = [0x5A, 0x61, 0x7A, 0x30] := by decide
theorem test_unit_last_indices : unit3 alphabetRom 0xF7 0xEF 0xC0 = [0x39, 0x2B, 0x2F, 0x41] := by decide

/-! ## Events: sections 2.7, 2.8 -/

theorem test_take : seen (perform .take (offering [0x54, 0x51, 0x3D, 0x3D] 4)) = some (0x01182, [0x51, 0x3D, 0x3D]) := by decide
theorem test_take_delivers : stream (perform .take (offering [0x54, 0x51, 0x3D, 0x3D] 4)) = some [0x54] := by decide
theorem test_werr : seen (perform .werr (offering [0x46, 0x75] 4)) = some (0x0110C, [0x46, 0x75]) := by decide
theorem test_reset : seen (perform .reset faulted) = some (0x00001, []) := by decide

/-! ## Steps: rules R101, R164 and the first command after reset (section 3, P1 row 1) -/

theorem test_first_command : seen (step (State.reset.withFetchWord 16 0x04D)) = some (0x00021, []) := by decide
theorem test_waiting_command_lets_sink_take :
    stream (step { offering [0x54] 4 with pending := [.cmd 0x100, .take] }) = some [0x54] := by decide
theorem test_fault_keeps_waiting :
    seen (step { faulted with pending := [.cmd 0x100, .take] }) = some (0x0110C, [0x46, 0x75]) := by decide

/-! ## Laws and spelling: sections 2.9, 2.6 and R87 -/

theorem test_encode_fooba : encodeSource [0x66, 0x6F, 0x6F, 0x62, 0x61] =
    [0x5A, 0x6D, 0x39, 0x76, 0x59, 0x6D, 0x45, 0x3D] := by decide
theorem test_assemble_source : assembleLine "SOURCE STR \"Man\"".toList =
    some (commandEvents [0x04D, 0x061, 0x06E, 0x100]) := by decide +kernel
theorem test_assemble_joined_forms : assembleLine "SOURCE REP 2, 0x41 + BYTES 0xFB, 'M' ; two".toList =
    some (commandEvents [0x041, 0x041, 0x0FB, 0x04D, 0x100]) := by decide +kernel

/-! ## Witnesses: states and operands that meet a statement's hypotheses -/

/-- The invariant of a core that is idle between commands. -/
theorem inv_idle (c : BitVec 7) (es : List Event) (h : c.toNat < 76) (h4 : c.toNat % 4 = 0) :
    Inv { fresh alphabetRom es with col := c } := by
  refine ⟨⟨?_, ?_, ?_, ?_, ?_, ?_, ?_, ?_, ?_⟩, ?_, ?_⟩ <;> simp [Config.lineWidth, Config.obufDepth, h, h4]

/-- The invariant with a symbol waiting. -/
theorem inv_offering (es : List Event) : Inv { fresh alphabetRom es with obuf := [padc], col := 4, lastCmd := some flushWord } := by
  refine ⟨⟨?_, ?_, ?_, ?_, ?_, ?_, ?_, ?_, ?_⟩, ?_, ?_⟩ <;> simp [Config.lineWidth, Config.obufDepth, LegalSymbol]

/-- The invariant with two bytes of a group held, between commands. -/
theorem inv_twoBytes (c : BitVec 7) (h : c.toNat < 76) (h4 : c.toNat % 4 = 0) :
    Inv { between 2 0x41 0x41 c with lastCmd := some 0x041 } := by
  refine ⟨⟨?_, ?_, ?_, ?_, ?_, ?_, ?_, ?_, ?_⟩, ?_, ?_⟩ <;>
    simp [between, Config.lineWidth, Config.obufDepth, flushWord, encode, assembleWord, h, h4]

theorem witness_ResetEventFromAnyState : { faulted with pending := [.reset, .take] }.pending = .reset :: [.take] := rfl
/-- RESET is next behind a waiting TAKE. -/
theorem witness_ResetEventFromAnyState_behind :
    { between 1 1 0 0 with pending := [.take, .reset] }.nextPending = some (.reset, [.take]) := by decide
theorem witness_ReadyValidAndHeadSymbol :
    (offering [0x54] 4).outValid = true ∧ (offering [0x54] 4).obuf = 0x54 :: [] ∧ (between 0 0 0 0).outValid = false := by decide
theorem witness_StatusWordFields : Inv { fresh alphabetRom [] with col := 72 } := inv_idle 72 [] (by decide) (by decide)
theorem witness_LutHoldsAlphabetAndIsNeverWritten : ∃ s t, step s = .next t := ⟨State.reset, _, rfl⟩
theorem witness_EmitCountsAndTerminatesLines :
    (between 2 0 0 75).col.toNat + 1 = 76 ∧ (between 2 0 0 74).col.toNat + 1 < 76 ∧
    (between 2 0 0 72).inReady = true ∧ (between 2 0 0 72).col.toNat < 76 ∧
    ∃ t, exec (.byte 0x41) (between 2 0 0 72) = .next t :=
  ⟨by decide, by decide, by decide, by decide, _, rfl⟩
theorem witness_EmittingIsWrapping : (between 0 0 0 75).col.toNat < 76 := by decide
theorem witness_ByteSuppliesOneByte :
    (0x0FF#10 &&& 0x300#10 = 0x000#10) ∧ (between 0 0 0 0).inReady = true ∧ (between 0 0 0 0).gcnt = 0 ∧
    (between 1 1 0 0).inReady = true ∧ (between 1 1 0 0).gcnt = 1 ∧
    (between 2 1 1 75).inReady = true ∧ (between 2 1 1 75).gcnt = 2 ∧ (between 2 1 1 75).col.toNat < 76 := by decide
theorem witness_FlushPadsPartialGroup :
    (between 0 0 0 72).inReady = true ∧ (between 0 0 0 72).gcnt = 0 ∧ (between 0 0 0 72).grp0 = 0 ∧
    (between 0 0 0 72).grp1 = 0 ∧ (between 1 1 0 75).inReady = true ∧ (between 1 1 0 75).gcnt = 1 ∧
    (between 1 1 0 75).col.toNat < 76 ∧ (between 2 1 1 75).inReady = true ∧ (between 2 1 1 75).gcnt = 2 ∧
    (between 2 1 1 75).col.toNat < 76 := by decide
theorem witness_IllegalWordsTakePreciseFault :
    (between 1 0x4D 0 0).inReady = true ∧ (0x101#10).extractLsb' 8 2 ≠ 0b00#2 ∧ 0x101#10 ≠ 0x100#10 := by decide
theorem witness_CommandWaitsUntilReady :
    (offering [0x54] 4).inReady = false ∧
    (∃ t, step { offering [0x54] 4 with pending := [.cmd 0x04D, .take] } = .next t) ∧ Event.werr ∉ [Event.take] ∧
    { between 0 0 0 0 with pending := [.cmd 0x04D, .take] }.inReady = true :=
  ⟨by decide, ⟨_, rfl⟩, by decide, by decide⟩
theorem witness_CommandFrames :
    (∃ t, exec (.byte 0x41) (between 0 0 0 0) = .next t) ∧ (∃ t, exec (.byte 0x41) (between 1 0 0 0) = .next t) ∧
    (∃ t, exec .flush (between 0 0 0 0) = .next t) ∧ (∃ t, exec (.illegalOp10 0) (between 0 0 0 0) = .next t) :=
  ⟨⟨_, rfl⟩, ⟨_, rfl⟩, ⟨_, rfl⟩, ⟨_, rfl⟩⟩
theorem witness_CommandOutputIsWholeUnits : Inv (fresh alphabetRom []) ∧ (fresh alphabetRom []).inReady = true ∧
    ∃ t, exec .flush (fresh alphabetRom []) = .next t :=
  ⟨inv_idle 0 [] (by decide) (by decide), by decide, _, rfl⟩
theorem witness_CommandOutputIsWholeUnits_five :
    Inv { between 2 0x41 0x41 72 with lastCmd := some 0x041 } ∧
    ∃ t, exec (.byte 0x41) { between 2 0x41 0x41 72 with lastCmd := some 0x041 } = .next t ∧ t.obuf.length = 5 :=
  ⟨inv_twoBytes 72 (by decide) (by decide), _, rfl, by decide⟩
theorem witness_CommandOutputIsWholeUnits_four :
    Inv { between 2 0x41 0x41 68 with lastCmd := some 0x041 } ∧
    ∃ t, exec (.byte 0x41) { between 2 0x41 0x41 68 with lastCmd := some 0x041 } = .next t ∧ t.obuf.length = 4 :=
  ⟨inv_twoBytes 68 (by decide) (by decide), _, rfl, by decide⟩
theorem witness_DecodeAndEncodeAgree : wellFormed (.illegalFlushData 0x01) = true ∧ wellFormed (.byte 0xFF) = true := by decide
theorem witness_DecodeMapAndCounts :
    (0x0FF#10).extractLsb' 8 2 = 0b00#2 ∧ (0x100#10).extractLsb' 8 2 = 0b01#2 ∧ (0x100#10).extractLsb' 0 8 = 0x00#8 ∧
    (0x101#10).extractLsb' 8 2 = 0b01#2 ∧ (0x101#10).extractLsb' 0 8 ≠ 0x00#8 ∧
    (0x2FF#10).extractLsb' 8 2 = 0b10#2 ∧ (0x300#10).extractLsb' 8 2 = 0b11#2 := by decide
theorem witness_StepRunsDecodedCommand :
    wellFormed .flush = true ∧ { between 1 1 0 0 with pending := [.cmd (encode .flush)] }.inReady = true ∧
    { between 1 1 0 0 with pending := [.cmd (encode .flush)] }.pending = .cmd (encode .flush) :: [] ∧
    0x3FF < 1024 ∧ State.reset.inReady = true := by decide
/-- A RESET, an illegal word and a WERR that are next behind a waiting event of the other agent. -/
theorem witness_StepRunsDecodedCommand_behind :
    { between 1 1 0 0 with pending := [.take, .reset] }.nextPending = some (.reset, [.take]) ∧
    wellFormed (.illegalOp10 0) = true ∧
    { between 1 1 0 0 with pending := [.take, .cmd 0x200] }.nextPending = some (.cmd (encode (.illegalOp10 0)), [.take]) ∧
    { offering [0x54] 4 with pending := [.cmd 0x100, .werr] }.nextPending = some (.werr, [.cmd 0x100]) := by decide
theorem witness_TakeDeliversHeadSymbol :
    (offering [0x54] 4).fault = false ∧ (offering [0x54] 4).obuf = 0x54 :: [] ∧ faulted.outValid = false ∧
    { offering [0x54] 4 with pending := [.take] }.pending = .take :: [] := by decide
theorem witness_WriteErrorTakesPreciseFault :
    (offering [0x54] 4).outValid = true ∧ (between 0 0 0 0).outValid = false ∧
    Event.reset ∉ { offering [0x54] 4 with pending := [.werr, .take] }.pending ∧
    (∃ u, steps 3 faulted = .next u) ∧ { offering [0x54] 4 with pending := [.werr] }.pending = .werr :: [] :=
  ⟨by decide, by decide, by decide, ⟨_, rfl⟩, rfl⟩
theorem witness_FaultEntryIsPrecise : (offering [0x54] 4).fault = false ∧ faulted.fault = true := by decide
theorem witness_FaultStateLeftOnlyByReset : faulted.fault = true ∧ ∃ t, step { faulted with pending := [.reset] } = .next t :=
  ⟨rfl, _, rfl⟩
theorem witness_OnlyTwoCausesOfFault :
    (∃ t, step { between 1 1 0 0 with pending := [.cmd 0x200] } = .next t ∧ t.fault = true) ∧
    (∃ t, step { offering [0x54] 4 with pending := [.werr] } = .next t ∧ t.fault = true) :=
  ⟨⟨_, rfl, rfl⟩, ⟨_, rfl, rfl⟩⟩
theorem witness_OutputIsFirstInFirstOut :
    (∃ t, step { between 2 1 1 72 with pending := [.cmd 0x041] } = .next t) ∧
    (∃ t, step { offering [0x54] 4 with pending := [.take] } = .next t) :=
  ⟨⟨_, rfl⟩, ⟨_, rfl⟩⟩
theorem witness_AgentsKeepTheirOrder :
    { offering [0x54] 4 with pending := [.cmd 0x100, .take] }.nextPending = some (.take, [.cmd 0x100]) ∧
    { between 0 0 0 0 with pending := [.take, .cmd 0x100] }.nextPending = some (.cmd 0x100, [.take]) := by decide
theorem witness_CoreWaitsWithoutEnabledEvent : { faulted with pending := [.cmd 0x100, .take] }.nextPending = none := by decide
/-- A RESET behind the HOST's own waiting command (log 1): none is performed. -/
theorem witness_CoreWaitsWithoutEnabledEvent_reset :
    { faulted with pending := [.cmd 0x100, .reset] }.nextPending = none := by decide
theorem witness_EventsReadOnlyTheCore :
    CoreAgrees (between 1 1 0 0) { between 1 1 0 0 with delivered := [0x54] } ∧
    (∃ t, perform (.cmd 0x100) (between 1 1 0 0) = .next t) ∧
    (∃ t, perform (.cmd 0x100) { between 1 1 0 0 with delivered := [0x54] } = .next t) :=
  ⟨⟨rfl, rfl, rfl, rfl, rfl, rfl, rfl, rfl⟩, ⟨_, rfl⟩, ⟨_, rfl⟩⟩
theorem witness_StepKeepsInvariant : Inv (fresh alphabetRom [.cmd 0x04D]) ∧ ∃ t, step (fresh alphabetRom [.cmd 0x04D]) = .next t :=
  ⟨inv_idle 0 _ (by decide) (by decide), _, rfl⟩
theorem witness_InvariantImpliesClauses : Inv { between 2 0x41 0x41 72 with lastCmd := some 0x041 } :=
  inv_twoBytes 72 (by decide) (by decide)
theorem witness_ReachableStatesSatisfyClauses : ∃ t, steps 1 (fresh alphabetRom [.cmd 0x04D]) = .next t := ⟨_, rfl⟩

/-- The HOST's commands of the source `M` in two chunks (the second empty), its four TAKEs in between. -/
def scheduleM : List Event := [.take, .cmd 0x04D, .take, .cmd 0x100, .take, .take]

theorem witness_SourceIsEncodedAndWrapped :
    Inv (fresh alphabetRom scheduleM) ∧ (fresh alphabetRom scheduleM).inReady = true ∧ [0x4D#8] = [[0x4D#8], []].flatten ∧
    hostPart (fresh alphabetRom scheduleM).pending =
      (([[0x4D#8], []].flatMap fun chunk => chunk.map byteWord) ++ [flushWord]).map Event.cmd ∧
    sinkPart (fresh alphabetRom scheduleM).pending =
      List.replicate (wrap 0 (encodeSource [0x4D])).1.length Event.take :=
  ⟨inv_idle 0 _ (by decide) (by decide), by decide, by decide, by decide, by decide⟩
theorem witness_RunDeliversWrappedEncodings :
    { faulted with pending := .reset :: scheduleM }.lut = alphabetRom ∧
    HostKeepsDuties [[0x4D#8]] { faulted with pending := .reset :: scheduleM }.pending ∧
    sinkPart scheduleM = List.replicate (runStream [[0x4D#8]]).1.length Event.take :=
  ⟨rfl, rfl, by decide⟩

/-- Three sources, `M`, `Ma` and the empty one, with the TAKEs of their eight symbols partly before and partly between
the HOST's commands. -/
def scheduleThreeSources : List Event :=
  [.take, .take, .cmd 0x04D, .cmd 0x100, .take, .cmd 0x04D, .take, .take, .cmd 0x061, .cmd 0x100, .cmd 0x100, .take,
    .take, .take]

theorem witness_RunDeliversWrappedEncodings_several :
    { faulted with pending := .reset :: scheduleThreeSources }.lut = alphabetRom ∧
    HostKeepsDuties [[0x4D#8], [0x4D, 0x61], []] { faulted with pending := .reset :: scheduleThreeSources }.pending ∧
    sinkPart scheduleThreeSources = List.replicate (runStream [[0x4D#8], [0x4D, 0x61], []]).1.length Event.take :=
  ⟨rfl, rfl, by decide⟩
theorem witness_DeliveredIsPrefixOfRun :
    hostPart [.cmd 0x04D, .werr] <+: (runWords [[0x4D#8]]).map Event.cmd ∧
    ∃ t, steps 2 (fresh alphabetRom [.cmd 0x04D, .werr]) = .next t :=
  ⟨by decide, _, rfl⟩
theorem witness_FairSinkEndsTheRun :
    Inv { fresh alphabetRom [.take, .cmd 0x100, .take, .take, .werr, .take, .take] with
      obuf := [padc], col := 4, lastCmd := some flushWord } ∧
    Event.reset ∉ [Event.take, .cmd 0x100, .take, .take, .werr, .take, .take] ∧
    1 + 5 * (hostPart [.take, .cmd 0x100, .take, .take, .werr, .take, .take]).length ≤
      (sinkPart [.take, .cmd 0x100, .take, .take, .werr, .take, .take]).length :=
  ⟨inv_offering _, by decide, by decide⟩
theorem witness_SuccessfulEndShowsInStatus :
    Inv (fresh alphabetRom []) ∧ (fresh alphabetRom []).endedSuccessfully ∧
    Inv { fresh alphabetRom [] with obuf := [padc], col := 4, lastCmd := some flushWord } ∧
    (between 1 1 0 0).gcnt ≠ 0 :=
  ⟨inv_idle 0 [] (by decide) (by decide), by decide, inv_offering [], by decide⟩

/-- The source `M`, whose SINK takes two symbols and fails at the third, one TAKE still to come after the failure. -/
def scheduleFailing : List Event := [.take, .cmd 0x04D, .cmd 0x100, .take, .werr, .take]

theorem witness_FailedWriteIsObserved :
    hostPart scheduleFailing = (runWords [[0x4D#8]]).map Event.cmd ∧ 2 < (runStream [[0x4D#8]]).1.length ∧
    sinkPart scheduleFailing = List.replicate 2 Event.take ++ Event.werr :: [.take] := by decide
/-- The failure at the first symbol of the stream, and at its last. -/
theorem witness_FailedWriteIsObserved_bounds :
    sinkPart [.werr, .cmd 0x04D, .cmd 0x100] = List.replicate 0 Event.take ++ Event.werr :: [] ∧
    3 < (runStream [[0x4D#8]]).1.length ∧
    sinkPart [.cmd 0x04D, .take, .take, .take, .werr, .cmd 0x100] = List.replicate 3 Event.take ++ Event.werr :: [] := by
  decide
/-- An end in fault with symbols undelivered, a successful end, and a state that is no end. -/
theorem witness_RunObservation :
    faulted.endedInFault ∧ Event.reset ∉ { faulted with pending := [.cmd 0x100, .take] }.pending ∧
    (fresh alphabetRom [.take]).endedSuccessfully ∧ Event.reset ∉ (fresh alphabetRom [.take]).pending ∧
    0 < (offering [0x54] 4).obuf.length ∧ ¬ (offering [0x54] 4).endedSuccessfully := by decide
/-- R136's example: TAKE, TAKE, WERR with TWFu in OBUF is observed as `TW`, not ended successfully. -/
theorem test_failed_write_observation :
    (match steps 3 { offering [0x54, 0x57, 0x46, 0x75] 4 with pending := [.take, .take, .werr] } with
      | .next t => t.observation
      | _ => ⟨[], true⟩) = ⟨[0x54, 0x57], false⟩ := by decide
theorem witness_StandardDecodingRecoversSource : encodeSource [0x4D] = encodeSource [0x4D] := rfl
theorem witness_RunStreamHasFullLines : 4 = (runCharacters [[0x4D#8]]).length := by decide
theorem witness_ProgramLinesExpand : (offering [0x54] 4).outValid = true ∧ (offering [0x54] 4).inReady = false := by decide

end Sys2Proof.Machine.Tests
end

section
/-! The order in which HOST and SINK are served: where the event of a step stands in what is pending (log 1). -/

namespace Sys2Proof.Machine

@[simp] theorem hostPart_append (es fs : List Event) : hostPart (es ++ fs) = hostPart es ++ hostPart fs :=
  List.filter_append es fs

@[simp] theorem sinkPart_append (es fs : List Event) : sinkPart (es ++ fs) = sinkPart es ++ sinkPart fs :=
  List.filter_append es fs

theorem hostPart_cons (e : Event) (es : List Event) :
    hostPart (e :: es) = if e.agent = .host then e :: hostPart es else hostPart es := by
  simp [hostPart, List.filter_cons, Event.isHost]

theorem sinkPart_cons (e : Event) (es : List Event) :
    sinkPart (e :: es) = if e.agent = .sink then e :: sinkPart es else sinkPart es := by
  simp [sinkPart, List.filter_cons, Event.isSink]

theorem hostPart_eq_nil_iff (es : List Event) : hostPart es = [] ↔ ∀ x ∈ es, x.agent ≠ .host := by
  simp [hostPart, Event.isHost]

theorem sinkPart_eq_nil_iff (es : List Event) : sinkPart es = [] ↔ ∀ x ∈ es, x.agent ≠ .sink := by
  simp [sinkPart, Event.isSink]

/-- The chosen event is taken out of its place, only events of the other agent stand before it, and it is no event of an
agent already waiting. -/
theorem nextEvent_split (on : Event → Bool) (w : Option Agent) (es : List Event) {e : Event} {rest : List Event}
    (h : nextEvent on w es = some (e, rest)) :
    w ≠ some e.agent ∧ ∃ before after, es = before ++ e :: after ∧ rest = before ++ after ∧
      ∀ x ∈ before, x.agent ≠ e.agent := by
  induction es generalizing w rest with
  | nil => cases w <;> simp [nextEvent] at h
  | cons x es ih =>
    -- An event passed over joins the events before the chosen one; its agent is the one that waits from there on.
    have passed (hx : (nextEvent on (some x.agent) es).map (fun p => (p.1, x :: p.2)) = some (e, rest)) :
        x.agent ≠ e.agent ∧ ∃ before after, x :: es = before ++ e :: after ∧ rest = before ++ after ∧
          ∀ y ∈ before, y.agent ≠ e.agent := by
      obtain ⟨⟨e', r⟩, hr, heq⟩ := Option.map_eq_some_iff.1 hx
      obtain ⟨rfl, rfl⟩ := Prod.mk.inj heq
      obtain ⟨hw, before, after, rfl, rfl, hb⟩ := ih _ hr
      have hne : x.agent ≠ e'.agent := fun hxe => hw (congrArg some hxe)
      exact ⟨hne, x :: before, after, rfl, rfl, List.forall_mem_cons.2 ⟨hne, hb⟩⟩
    cases w with
    | none =>
      simp only [nextEvent] at h
      split at h
      case isTrue =>
        cases h
        exact ⟨nofun, [], es, rfl, rfl, nofun⟩
      case isFalse => exact ⟨nofun, (passed h).2⟩
    | some a =>
      simp only [nextEvent] at h
      split at h
      case isTrue ha =>
        subst ha
        obtain ⟨hne, hsplit⟩ := passed h
        exact ⟨fun hw => hne (Option.some.inj hw), hsplit⟩
      case isFalse ha =>
        split at h
        case isTrue =>
          cases h
          exact ⟨fun hw => ha (Option.some.inj hw).symm, [], es, rfl, rfl, nofun⟩
        case isFalse => cases h

/-- The event performed is taken out of its place in what is pending, behind events of the other agent only. -/
theorem State.nextPending_split (s : State) {e : Event} {rest : List Event} (h : s.nextPending = some (e, rest)) :
    ∃ before after, s.pending = before ++ e :: after ∧ rest = before ++ after ∧ ∀ x ∈ before, x.agent ≠ e.agent :=
  (nextEvent_split _ _ _ h).2

/-- Settles O25: behind events of the other agent only, the event performed heads its own agent's part and stands in no
other. -/
theorem agentsKeepTheirOrder : Obligations.AgentsKeepTheirOrder := by
  intro s e rest h
  obtain ⟨before, after, hp, rfl, hb⟩ := s.nextPending_split h
  refine ⟨nextEvent_enabled _ _ _ h, fun he => ?_, fun he => ?_⟩
  · have hnil : hostPart before = [] := (hostPart_eq_nil_iff before).2 (he ▸ hb)
    simp [hp, hostPart_cons, sinkPart_cons, he, hnil]
  · have hnil : sinkPart before = [] := (sinkPart_eq_nil_iff before).2 (he ▸ hb)
    simp [hp, hostPart_cons, sinkPart_cons, he, hnil]

end Sys2Proof.Machine
end

section
/-! The formatter on whole lists of characters, and what an event and a step can do, said once each as the cases of an
inductive predicate. -/

namespace Sys2Proof.Machine

/-! ## Line wrap and the units -/

/-- Emitting a list of characters appends what `wrap` gives and leaves its column (R139). -/
theorem emitAll_eq_wrap (cs : List Byte) (s : State) (h : s.col.toNat < Config.lineWidth) :
    emitAll cs s =
      { s with obuf := s.obuf ++ (wrap s.col.toNat cs).1, col := BitVec.ofNat 7 (wrap s.col.toNat cs).2 } := by
  induction cs generalizing s with
  | nil => simp [emitAll, wrap]
  | cons c cs ih =>
    rw [emitAll, wrap]
    by_cases he : s.col.toNat + 1 = Config.lineWidth
    · rw [emit_completes_line c s he, ih _ (by simp [Config.lineWidth]), if_pos he]
      simp
    · have hlt : s.col.toNat + 1 < Config.lineWidth := by omega
      have hcol : (s.col + 1#7).toNat = s.col.toNat + 1 := by
        simp only [Config.lineWidth] at hlt
        bv_omega
      rw [emit_within_line c s he, ih _ (hcol ▸ hlt), if_neg he]
      simp [hcol]

/-- Characters that leave the line incomplete take no terminator. -/
theorem wrap_within_line (n : Nat) (cs : List Byte) (h : n + cs.length < Config.lineWidth) :
    wrap n cs = (cs, n + cs.length) := by
  induction cs generalizing n with
  | nil => rfl
  | cons c cs ih =>
    rw [List.length_cons] at h
    rw [wrap, if_neg (by omega), ih (n + 1) (by omega), List.length_cons, Nat.add_right_comm n 1, Nat.add_assoc]

/-- Characters that complete the line are followed by its terminator. -/
theorem wrap_completes_line (n : Nat) (cs : List Byte) (hne : cs ≠ []) (h : n + cs.length = Config.lineWidth) :
    wrap n cs = (cs ++ [lf], 0) := by
  induction cs generalizing n with
  | nil => contradiction
  | cons c cs ih =>
    rw [List.length_cons] at h
    rw [wrap]
    cases cs with
    | nil => exact if_pos h
    | cons d ds =>
      rw [if_neg (by simp at h; omega), ih (n + 1) nofun (by omega)]
      rfl

/-- What a command can emit: four characters, each a ROM entry or the pad (R133). -/
structure IsUnit (lut : Vector Byte 64) (cs : List Byte) : Prop where
  length_eq : cs.length = 4
  chars : ∀ c ∈ cs, c ∈ lut.toList ∨ c = padc

theorem lookup_mem (lut : Vector Byte 64) (i : Index) : lookup lut i ∈ lut :=
  Vector.getElem_mem i.toFin.isLt

theorem isUnit_unit3 (lut : Vector Byte 64) (b0 b1 b2 : Byte) : IsUnit lut (unit3 lut b0 b1 b2) :=
  ⟨rfl, by simp [unit3, lookup_mem]⟩

theorem isUnit_unit2 (lut : Vector Byte 64) (b0 b1 : Byte) : IsUnit lut (unit2 lut b0 b1) :=
  ⟨rfl, by simp [unit2, lookup_mem]⟩

theorem isUnit_unit1 (lut : Vector Byte 64) (b0 : Byte) : IsUnit lut (unit1 lut b0) :=
  ⟨rfl, by simp [unit1, lookup_mem]⟩

theorem IsUnit.legalSymbol {lut : Vector Byte 64} {cs : List Byte} (h : IsUnit lut cs) {c : Byte} (hc : c ∈ cs) :
    LegalSymbol lut c :=
  (h.chars c hc).imp_right .inl

/-- No character of a unit is the terminator (R31). -/
theorem IsUnit.lf_notMem {cs : List Byte} (h : IsUnit alphabetRom cs) : lf ∉ cs := by
  intro hlf
  have hchar := h.chars lf hlf
  revert hchar
  decide

theorem col_add_four (c : BitVec 7) (h : c.toNat + 4 < Config.lineWidth) : (c + 4#7).toNat = c.toNat + 4 := by
  simp only [Config.lineWidth] at h
  bv_omega

/-- A unit stays within its line or completes it, where the line's column is a multiple of 4 (R140). -/
theorem emitAll_unit {lut : Vector Byte 64} {cs : List Byte} (h : IsUnit lut cs) (s : State)
    (hlt : s.col.toNat < Config.lineWidth) (h4 : s.col.toNat % 4 = 0) :
    (s.col.toNat + 4 < Config.lineWidth ∧ emitAll cs s = { s with obuf := s.obuf ++ cs, col := s.col + 4#7 }) ∨
    (s.col = 72#7 ∧ emitAll cs s = { s with obuf := s.obuf ++ (cs ++ [lf]), col := 0#7 }) := by
  rw [emitAll_eq_wrap cs s hlt]
  by_cases hw : s.col.toNat + 4 < Config.lineWidth
  · left
    have hcol : BitVec.ofNat 7 (s.col.toNat + 4) = s.col + 4#7 := by
      rw [← col_add_four s.col hw, BitVec.ofNat_toNat, BitVec.setWidth_eq]
    simp [wrap_within_line _ cs (h.length_eq ▸ hw), h.length_eq, hcol, hw]
  · right
    have hend : s.col.toNat = 72 := by simp only [Config.lineWidth] at hlt hw; omega
    have hne : cs ≠ [] := by rintro rfl; exact absurd h.length_eq (by decide)
    rw [wrap_completes_line _ cs hne (by simp [hend, h.length_eq, Config.lineWidth])]
    exact ⟨BitVec.eq_of_toNat_eq hend, rfl⟩

/-! ## What commands, events and steps can do -/

/-- The unit a command emits (R102, R103). As in the rules, the last branch is the one with neither 0 nor 1 in GCNT. -/
inductive EmittedUnit (s : State) : Instr → List Byte → Prop where
  | thirdByte (d : Byte) (h0 : s.gcnt ≠ 0#2) (h1 : s.gcnt ≠ 1#2) :
      EmittedUnit s (.byte d) (unit3 s.lut s.grp0 s.grp1 d)
  | flushOne (h1 : s.gcnt = 1#2) : EmittedUnit s .flush (unit1 s.lut s.grp0)
  | flushTwo (h0 : s.gcnt ≠ 0#2) (h1 : s.gcnt ≠ 1#2) : EmittedUnit s .flush (unit2 s.lut s.grp0 s.grp1)

theorem EmittedUnit.isUnit {s : State} {i : Instr} {cs : List Byte} (h : EmittedUnit s i cs) : IsUnit s.lut cs := by
  cases h with
  | thirdByte d h0 h1 => exact isUnit_unit3 ..
  | flushOne h1 => exact isUnit_unit1 ..
  | flushTwo h0 h1 => exact isUnit_unit2 ..

/-- What an accepted command can do (R102, R103, R104). -/
inductive CommandEffect (s : State) : Instr → State → Prop where
  /-- BYTE with no byte held. -/
  | firstByte (d : Byte) (hg : s.gcnt = 0#2) : CommandEffect s (.byte d) (s.setGroup d s.grp1 1#2)
  /-- BYTE with one byte held. -/
  | secondByte (d : Byte) (hg : s.gcnt = 1#2) : CommandEffect s (.byte d) (s.setGroup s.grp0 d 2#2)
  /-- The third BYTE, or FLUSH of a partial group. -/
  | emitsUnit (i : Instr) (cs : List Byte) (hu : EmittedUnit s i cs) : CommandEffect s i (clearGroup (emitAll cs s))
  /-- FLUSH with no byte held. -/
  | flushesNothing (hg : s.gcnt = 0#2) : CommandEffect s .flush (clearGroup s)
  /-- An illegal command. -/
  | faults (i : Instr) (hb : ∀ d, i ≠ .byte d) (hf : i ≠ .flush) :
      CommandEffect s i (s.setFault Cause.illegalCmd.code)

/-- An accepted command has one of these effects. -/
theorem exec_effect (i : Instr) {s t : State} (hr : s.inReady = true) (h : exec i s = .next t) :
    CommandEffect s i t := by
  have hrun : s.fault = false := (s.inReady_iff.1 hr).1
  cases i with
  | byte d =>
    rw [exec, execByte, whenReady_of_ready s _ hr] at h
    cases h
    split
    case isTrue hg => exact .firstByte d hg
    case isFalse h0 =>
      split
      case isTrue hg => exact .secondByte d hg
      case isFalse h1 => exact .emitsUnit _ _ (.thirdByte d h0 h1)
  | flush =>
    rw [exec, execFlush, whenReady_of_ready s _ hr] at h
    cases h
    split
    case isTrue hg => exact .flushesNothing hg
    case isFalse h0 =>
      split
      case isTrue h1 => exact .emitsUnit _ _ (.flushOne h1)
      case isFalse h1 => exact .emitsUnit _ _ (.flushTwo h0 h1)
  | illegalFlushData d =>
    rw [exec, execIllegalFlushData, whenReady_of_ready s _ hr, raiseFault_of_running _ s hrun] at h
    cases h
    exact .faults _ nofun nofun
  | illegalOp10 d =>
    rw [exec, execIllegalOp10, whenReady_of_ready s _ hr, raiseFault_of_running _ s hrun] at h
    cases h
    exact .faults _ nofun nofun
  | illegalOp11 d =>
    rw [exec, execIllegalOp11, whenReady_of_ready s _ hr, raiseFault_of_running _ s hrun] at h
    cases h
    exact .faults _ nofun nofun

/-- What an enabled event can do (R101, R135, R136, R180). -/
inductive EventEffect (s : State) : Event → State → Prop where
  | command (w : CmdWord) (t : State) (hr : s.inReady = true) (hc : CommandEffect (s.recordCmd w) (decode w) t) :
      EventEffect s (.cmd w) t
  | takes (c : Byte) (rest : List Byte) (hf : s.fault = false) (hb : s.obuf = c :: rest) :
      EventEffect s .take (s.deliver c rest)
  | writeFails (hf : s.fault = false) (hb : s.obuf ≠ []) : EventEffect s .werr (s.setFault Cause.writeError.code)
  | resets : EventEffect s .reset (resetCore s)

/-- An enabled event has one of these effects. -/
theorem perform_effect (e : Event) {s t : State} (he : s.enabled e = true) (h : perform e s = .next t) :
    EventEffect s e t := by
  cases e with
  | cmd w => exact .command w t he (exec_effect _ he h)
  | take =>
    cases h
    obtain ⟨hf, hb⟩ := s.outValid_iff.1 he
    obtain ⟨c, rest, hcr⟩ := List.exists_cons_of_ne_nil hb
    rw [takeHead_of_valid s c rest hf hcr]
    exact .takes c rest hf hcr
  | werr =>
    cases h
    obtain ⟨hf, hb⟩ := s.outValid_iff.1 he
    rw [writeFails_of_valid s he]
    exact .writeFails hf hb
  | reset =>
    cases h
    exact .resets

@[simp] theorem State.setPending_enabled (es : List Event) (s : State) (e : Event) :
    (s.setPending es).enabled e = s.enabled e := by
  cases e <;> rfl

/-- A step keeps the state, where no event is enabled, or has the effect of the event that is next (R175). -/
theorem step_effect {s t : State} (h : step s = .next t) :
    (s.nextPending = none ∧ t = s) ∨
    ∃ e rest, s.nextPending = some (e, rest) ∧ EventEffect (s.setPending rest) e t := by
  obtain hnone | ⟨e, rest, hn, he, hp⟩ := step_cases s t h
  · exact .inl hnone
  · exact .inr ⟨e, rest, hn, perform_effect e (by rwa [s.setPending_enabled]) hp⟩

/-- A property that every step keeps holds along every run. -/
theorem steps_keep {P : State → Prop} (hstep : ∀ s t, P s → step s = .next t → P t) (k : Nat) {s t : State}
    (hs : P s) (h : steps k s = .next t) : P t := by
  induction k generalizing s with
  | zero =>
    cases h
    exact hs
  | succ k ih =>
    cases hnext : step s with
    | next s' =>
      rw [steps_succ_of_next k s s' hnext] at h
      exact ih (hstep s s' hs hnext) h
    | fault r => exact nomatch r
    | refused r =>
      rw [steps_succ, hnext] at h
      cases h

end Sys2Proof.Machine
end

section
/-! The invariant: it holds after reset, every event keeps it, and R41 follows from it. -/

namespace Sys2Proof.Machine

/-! The core's invariant does not read the HOST's record, and neither invariant reads what is pending. -/

theorem CoreInv.recordCmd {s : State} (h : CoreInv s) (w : CmdWord) : CoreInv (s.recordCmd w) := { h with }

theorem Inv.setPending {s : State} (h : Inv s) (es : List Event) : Inv (s.setPending es) := { h with }

/-- A state whose group is empty, with what one command of a running core may have left in OBUF. -/
theorem CoreInv.clearGroup_obuf_col {s : State} (h : CoreInv s) (hf : s.fault = false) {b : List Byte} {c : BitVec 7}
    (hb : b.length ≤ Config.obufDepth) (hsym : ∀ x ∈ b, LegalSymbol s.lut x) (hlf : lf ∉ b.dropLast)
    (hlt : c.toNat < Config.lineWidth) (h4 : c.toNat % 4 = 0) :
    CoreInv (clearGroup { s with obuf := b, col := c }) where
  rom := h.rom
  gcnt_legal := by simp
  col_lt := hlt
  obuf_bound := hb
  group_zeroed := by simp
  fault_cause := h.fault_cause
  cause_legal := by simp [h.fault_cause.1 hf]
  symbols := hsym
  col_multiple := ⟨h4, hlf⟩

/-- The unit of an accepted command leaves 4 symbols within the line, or 5 with the terminator last (R134, R140). -/
theorem CoreInv.emitsUnit {s : State} (h : CoreInv s) (hr : s.inReady = true) {cs : List Byte} (hu : IsUnit s.lut cs) :
    CoreInv (clearGroup (emitAll cs s)) := by
  obtain ⟨hf, hb⟩ := s.inReady_iff.1 hr
  have hlf : lf ∉ cs := IsUnit.lf_notMem (h.rom ▸ hu)
  have hsym : ∀ x ∈ cs, LegalSymbol s.lut x := fun x => hu.legalSymbol
  obtain ⟨h4, -⟩ := h.col_multiple
  obtain ⟨hc, he⟩ | ⟨-, he⟩ := emitAll_unit hu s h.col_lt h4
  · have hcol := col_add_four s.col hc
    rw [he, hb, List.nil_append]
    exact h.clearGroup_obuf_col hf (by simp [hu.length_eq, Config.obufDepth]) hsym
      (fun hx => hlf (List.mem_of_mem_dropLast hx)) (hcol ▸ hc) (by omega)
  · rw [he, hb, List.nil_append]
    refine h.clearGroup_obuf_col hf (by simp [hu.length_eq, Config.obufDepth]) ?_ (by simpa using hlf) (by decide)
      (by decide)
    simpa [or_imp, forall_and] using ⟨hsym, Or.inr (Or.inr rfl)⟩

/-- Every accepted command keeps the core's invariant. -/
theorem CommandEffect.coreInv {i : Instr} {s t : State} (h : CoreInv s) (hr : s.inReady = true)
    (he : CommandEffect s i t) : CoreInv t := by
  obtain ⟨hf, hb⟩ := s.inReady_iff.1 hr
  cases he with
  | firstByte d hg => exact { h with gcnt_legal := by simp, group_zeroed := by simp [h.group_zeroed.1 hg] }
  | secondByte d hg => exact { h with gcnt_legal := by simp, group_zeroed := by simp }
  | emitsUnit i cs hu => exact h.emitsUnit hr hu.isUnit
  | flushesNothing hg => exact { h with gcnt_legal := by simp, group_zeroed := by simp }
  | faults i hbyte hflush =>
    exact { h with fault_cause := by simp [Cause.code], cause_legal := by simp [Cause.code, hb] }

/-- A command writes neither the ROM nor the environment's fields. -/
theorem CommandEffect.frame {i : Instr} {s t : State} (he : CommandEffect s i t) :
    t.delivered = s.delivered ∧ t.lastCmd = s.lastCmd ∧ t.lut = s.lut ∧ t.pending = s.pending := by
  cases he <;> simp

/-- An accepted FLUSH leaves no partial group (R103). -/
theorem CommandEffect.gcnt_of_flush {s t : State} (he : CommandEffect s .flush t) : t.gcnt = 0#2 := by
  cases he with
  | emitsUnit i cs hu => rfl
  | flushesNothing hg => rfl
  | faults i hbyte hflush => exact absurd rfl hflush

/-- The invariant holds after reset, whatever is pending. -/
theorem inv_fresh (es : List Event) : Inv (fresh alphabetRom es) :=
  { rom := rfl, gcnt_legal := by simp, col_lt := by simp [Config.lineWidth], obuf_bound := by simp,
    group_zeroed := by simp, fault_cause := by simp, cause_legal := by simp, symbols := by simp,
    col_multiple := by simp, delivered_symbols := by simp, flushed := by simp }

/-- RESET starts a fresh run with the same ROM (R180). -/
theorem resetCore_eq_fresh (s : State) : resetCore s = fresh s.lut s.pending := rfl

theorem mem_dropLast_cons {α : Type} {x : α} (c : α) {rest : List α} (h : x ∈ rest.dropLast) :
    x ∈ (c :: rest).dropLast := by
  rw [List.dropLast_cons_of_ne_nil (by rintro rfl; cases h)]
  exact List.mem_cons_of_mem c h

/-- Every enabled event keeps the invariant. -/
theorem EventEffect.inv {e : Event} {s t : State} (h : Inv s) (he : EventEffect s e t) : Inv t := by
  cases he with
  | command w t hr hc =>
    obtain ⟨hdel, hcmd, hlut, -⟩ := hc.frame
    refine ⟨hc.coreInv (h.recordCmd w) hr, ?_, fun hlast => ?_⟩
    · rw [hdel, hlut]
      exact h.delivered_symbols
    · have hw : w = flushWord := by simpa [hcmd] using hlast
      have hflush : decode w = .flush := hw ▸ (by decide : decode flushWord = .flush)
      exact (hflush ▸ hc).gcnt_of_flush
  | takes c rest hf hb =>
    have hbound : rest.length + 1 ≤ Config.obufDepth := by simpa [hb] using h.obuf_bound
    obtain ⟨hc, hrest⟩ := List.forall_mem_cons.1 (hb ▸ h.symbols)
    obtain ⟨h4, hlf⟩ := h.col_multiple
    exact { h with
      obuf_bound := Nat.le_of_succ_le hbound
      cause_legal := by simp [h.fault_cause.1 hf]
      symbols := hrest
      col_multiple := ⟨h4, fun hx => hlf (hb ▸ mem_dropLast_cons c hx)⟩
      delivered_symbols := by simpa [or_imp, forall_and] using ⟨h.delivered_symbols, hc⟩ }
  | writeFails hf hb =>
    exact { h with fault_cause := by simp [Cause.code], cause_legal := by simp [Cause.code, hb] }
  | resets =>
    rw [resetCore_eq_fresh, h.rom]
    exact inv_fresh s.pending

/-- Settles O30: a step keeps the state or has the effect of one enabled event, which keeps the invariant. -/
theorem stepKeepsInvariant : Obligations.StepKeepsInvariant := by
  intro s t h hst
  obtain ⟨-, rfl⟩ | ⟨e, rest, -, he⟩ := step_effect hst
  · exact h
  · exact he.inv (h.setPending rest)

/-- Settles O29: with no event performed yet each clause is about an empty or zeroed register. -/
theorem invariantAtReset : Obligations.InvariantAtReset := inv_fresh

/-- Settles O41: each clause of R41 is one of the invariant's, (f) by its ROM and (a) by the codes of two bits. -/
theorem invariantImpliesClauses : Obligations.InvariantImpliesClauses := fun s h =>
  { a := by have := h.gcnt_legal; bv_omega
    b := h.col_lt
    c := h.obuf_bound
    d := h.group_zeroed
    e := h.fault_cause
    f := h.rom ▸ h.symbols
    g := fun _ => h.col_multiple.1 }

/-- Settles O31: the invariant holds after reset, every step of the run keeps it, and the clauses follow from it. -/
theorem reachableStatesSatisfyClauses : Obligations.ReachableStatesSatisfyClauses := fun es k t ht =>
  invariantImpliesClauses t (steps_keep stepKeepsInvariant k (invariantAtReset es) ht)

/-- Settles O14: of the effects of a command only a unit fills OBUF, with 4 symbols or, from column 72, with 5. -/
theorem commandOutputIsWholeUnits : Obligations.CommandOutputIsWholeUnits := by
  intro i s t h hr ht
  obtain ⟨hf, hb⟩ := s.inReady_iff.1 hr
  obtain ⟨h4, -⟩ := h.col_multiple
  cases exec_effect i hr ht with
  | firstByte d hg => simp [hb, h4]
  | secondByte d hg => simp [hb, h4]
  | flushesNothing hg => simp [hb, h4]
  | faults i hbyte hflush => simp [hb, h4]
  | emitsUnit i cs hu =>
    have hlen := hu.isUnit.length_eq
    have hlf : lf ∉ cs := IsUnit.lf_notMem (h.rom ▸ hu.isUnit)
    obtain ⟨hc, he⟩ | ⟨hc, he⟩ := emitAll_unit hu.isUnit s h.col_lt h4
    · have hcol := col_add_four s.col hc
      have hcol4 : (s.col.toNat + 4) % 4 = 0 := by omega
      simp [he, hb, hlen, hcol, hcol4, List.take_of_length_le, hlf]
    · simp [he, hb, hc, hlen, hlf]

end Sys2Proof.Machine
end

section
/-! The signals of the state: the ready signals, the head symbol, and the STATUS word with its fields side by side. -/

namespace Sys2Proof.Machine

/-- Settles O1: the reset state, register by register, and the signals it evaluates to. -/
theorem resetRegistersAndOutputs : Obligations.ResetRegistersAndOutputs :=
  ⟨rfl, rfl, rfl, rfl, rfl, rfl, rfl, rfl, rfl, by decide⟩

/-- The head symbol is offered while OUT_VALID (R35). -/
theorem State.outData_of_valid (s : State) (h : s.outValid = true) : s.outData = s.obuf.head? := if_pos h

/-- No symbol is offered otherwise (R35). -/
theorem State.outData_of_not_valid (s : State) (h : s.outValid = false) : s.outData = none := by
  simp [State.outData, h]

/-- Settles O3: the two signals in terms of FAULT and OBUF; what they enable is the definition of `enabled`. -/
theorem readyValidAndHeadSymbol : Obligations.ReadyValidAndHeadSymbol := by
  intro s w
  refine ⟨?_, ?_, rfl, rfl, rfl, fun c rest hv hb => ?_, s.outData_of_not_valid, rfl, fun ⟨hr, hv⟩ => ?_⟩
  · rw [s.inReady_iff, List.length_eq_zero_iff]
  · rw [s.outValid_iff, List.length_pos_iff]
  · rw [s.outData_of_valid hv, hb, List.head?_cons]
  · exact (s.outValid_iff.1 hv).2 (s.inReady_iff.1 hr).2

/-- STATUS is its fields side by side, under 15 reserved bits (R37). -/
theorem State.status_eq_append (s : State) :
    s.status = 0#15 ++ s.col ++ s.ocnt ++ s.gcnt ++ s.fcause ++ BitVec.ofBool s.fault ++ BitVec.ofBool s.outValid ++
      BitVec.ofBool s.inReady := by
  rw [← BitVec.setWidth_eq (_ ++ BitVec.ofBool s.inReady)]
  iterate 7 rw [BitVec.setWidth_append_eq_shiftLeft_setWidth_or]
  simp [State.status, BitVec.shiftLeft_or_distrib, ← BitVec.shiftLeft_add]
  ac_rfl

/-! The fields read back from STATUS, each after dropping the ones below it. -/

@[simp] theorem State.status_inReady (s : State) : s.status.extractLsb' 0 1 = BitVec.ofBool s.inReady := by
  rw [s.status_eq_append]
  exact BitVec.extractLsb'_append_eq_right

@[simp] theorem State.status_outValid (s : State) : s.status.extractLsb' 1 1 = BitVec.ofBool s.outValid := by
  rw [s.status_eq_append, BitVec.extractLsb'_append_eq_of_le (by decide)]
  exact BitVec.extractLsb'_append_eq_right

@[simp] theorem State.status_fault (s : State) : s.status.extractLsb' 2 1 = BitVec.ofBool s.fault := by
  rw [s.status_eq_append]
  iterate 2 rw [BitVec.extractLsb'_append_eq_of_le (by decide)]
  exact BitVec.extractLsb'_append_eq_right

@[simp] theorem State.status_fcause (s : State) : s.status.extractLsb' 3 2 = s.fcause := by
  rw [s.status_eq_append]
  iterate 3 rw [BitVec.extractLsb'_append_eq_of_le (by decide)]
  exact BitVec.extractLsb'_append_eq_right

@[simp] theorem State.status_gcnt (s : State) : s.status.extractLsb' 5 2 = s.gcnt := by
  rw [s.status_eq_append]
  iterate 4 rw [BitVec.extractLsb'_append_eq_of_le (by decide)]
  exact BitVec.extractLsb'_append_eq_right

@[simp] theorem State.status_ocnt (s : State) : s.status.extractLsb' 7 3 = BitVec.ofNat 3 s.obuf.length := by
  rw [s.status_eq_append]
  iterate 5 rw [BitVec.extractLsb'_append_eq_of_le (by decide)]
  exact BitVec.extractLsb'_append_eq_right

@[simp] theorem State.status_col (s : State) : s.status.extractLsb' 10 7 = s.col := by
  rw [s.status_eq_append]
  iterate 6 rw [BitVec.extractLsb'_append_eq_of_le (by decide)]
  exact BitVec.extractLsb'_append_eq_right

@[simp] theorem State.status_reserved (s : State) : s.status.extractLsb' 17 15 = 0#15 := by
  rw [s.status_eq_append]
  iterate 6 rw [BitVec.extractLsb'_append_eq_of_le (by decide)]
  exact BitVec.extractLsb'_append_eq_left

/-- Settles O4: the fields read back from STATUS, with the bounds the invariant gives them. -/
theorem statusWordFields : Obligations.StatusWordFields := by
  refine ⟨fun s => ⟨s.status_inReady, s.status_outValid, s.status_fault, s.status_fcause, s.status_gcnt, s.status_ocnt,
    s.status_col, s.status_reserved, fun h => ?_⟩, by decide⟩
  rw [s.status_gcnt, s.status_ocnt, s.status_col]
  have hg := h.gcnt_legal
  have hb : s.obuf.length ≤ 5 := h.obuf_bound
  refine ⟨by bv_omega, ?_, hb, Nat.le_of_lt_succ h.col_lt⟩
  rw [BitVec.toNat_ofNat, Nat.mod_eq_of_lt (by omega)]

end Sys2Proof.Machine
end

section
/-! What no event reads or writes: the ROM is kept, and the core does not depend on the environment's record. -/

namespace Sys2Proof.Machine

/-- No event writes the ROM (R30). -/
theorem EventEffect.lut_eq {e : Event} {s t : State} (he : EventEffect s e t) : t.lut = s.lut := by
  cases he with
  | command w t hr hc =>
    obtain ⟨-, -, hlut, -⟩ := hc.frame
    exact hlut
  | takes c rest hf hb => rfl
  | writeFails hf hb => rfl
  | resets => rfl

/-- The table of R30 is its closed form. -/
theorem lookup_alphabetRom (i : Index) : (lookup alphabetRom i).toNat =
    if i.toNat ≤ 25 then 0x41 + i.toNat else if i.toNat ≤ 51 then 0x47 + i.toNat
    else if i.toNat ≤ 61 then i.toNat - 0x04 else if i.toNat = 62 then 0x2B else 0x2F := by
  revert i
  decide

/-- Settles O5: the 64 entries compared one by one, and no event writes the ROM. -/
theorem lutHoldsAlphabetAndIsNeverWritten : Obligations.LutHoldsAlphabetAndIsNeverWritten := by
  refine ⟨by decide, lookup_alphabetRom, by decide, by decide, by decide, by decide, by decide, by decide, by decide,
    by decide, fun s t h => ?_⟩
  obtain ⟨-, rfl⟩ | ⟨e, rest, -, he⟩ := step_effect h
  · rfl
  · exact he.lut_eq

/-! Two states that agree on the core agree after each operation. -/

theorem CoreAgrees.refl (s : State) : CoreAgrees s s := ⟨rfl, rfl, rfl, rfl, rfl, rfl, rfl, rfl⟩

theorem CoreAgrees.recordCmd {s s' : State} (h : CoreAgrees s s') (w : CmdWord) :
    CoreAgrees (s.recordCmd w) (s'.recordCmd w) := { h with }

theorem CoreAgrees.setGroup {s s' : State} (h : CoreAgrees s s') (g0 g1 : Byte) (n : BitVec 2) :
    CoreAgrees (s.setGroup g0 g1 n) (s'.setGroup g0 g1 n) := { h with grp0 := rfl, grp1 := rfl, gcnt := rfl }

theorem CoreAgrees.emit {s s' : State} (h : CoreAgrees s s') (c : Byte) : CoreAgrees (emit c s) (emit c s') := by
  unfold Machine.emit
  rw [h.col]
  split <;> exact { h with col := rfl, obuf := by simp [h.obuf] }

theorem CoreAgrees.emitAll {s s' : State} (h : CoreAgrees s s') (cs : List Byte) :
    CoreAgrees (emitAll cs s) (emitAll cs s') := by
  induction cs generalizing s s' with
  | nil => exact h
  | cons c cs ih => exact ih (h.emit c)

theorem CoreAgrees.clearGroup {s s' : State} (h : CoreAgrees s s') : CoreAgrees (clearGroup s) (clearGroup s') :=
  h.setGroup ..

theorem CoreAgrees.raiseFault {s s' : State} (h : CoreAgrees s s') (k : Cause) :
    CoreAgrees (raiseFault k s) (raiseFault k s') := by
  unfold Machine.raiseFault
  rw [h.fault]
  split
  · exact h
  · exact { h with fault := rfl, fcause := rfl }

theorem CoreAgrees.deliver {s s' : State} (h : CoreAgrees s s') (c : Byte) (rest : List Byte) :
    CoreAgrees (s.deliver c rest) (s'.deliver c rest) := { h with obuf := rfl }

theorem CoreAgrees.resetCore {s s' : State} (h : CoreAgrees s s') : CoreAgrees (resetCore s) (resetCore s') :=
  { CoreAgrees.refl State.reset with lut := h.lut }

theorem CoreAgrees.inReady_eq {s s' : State} (h : CoreAgrees s s') : s.inReady = s'.inReady := by
  rw [State.inReady, State.inReady, h.fault, h.obuf]

theorem CoreAgrees.outValid_eq {s s' : State} (h : CoreAgrees s s') : s.outValid = s'.outValid := by
  rw [State.outValid, State.outValid, h.fault, h.obuf]

theorem CoreAgrees.takeHead {s s' : State} (h : CoreAgrees s s') : CoreAgrees (takeHead s) (takeHead s') := by
  unfold Machine.takeHead
  rw [h.obuf, h.outValid_eq]
  split
  · exact h
  · split
    · exact h.deliver ..
    · exact h

theorem CoreAgrees.writeFails {s s' : State} (h : CoreAgrees s s') : CoreAgrees (writeFails s) (writeFails s') := by
  unfold Machine.writeFails
  rw [h.outValid_eq]
  split
  · exact h.raiseFault _
  · exact h

/-- Two outcomes that are next states agreeing on the core. -/
def NextAgrees (o o' : Host.Outcome State Fault Refusal) : Prop :=
  ∀ t t', o = .next t → o' = .next t' → CoreAgrees t t'

theorem CoreAgrees.next {s s' : State} (h : CoreAgrees s s') : NextAgrees (.next s) (.next s') := by
  intro t t' ht ht'
  cases ht
  cases ht'
  exact h

theorem CoreAgrees.whenReady {s s' : State} (h : CoreAgrees s s') {k : State → State}
    (hk : CoreAgrees (k s) (k s')) : NextAgrees (whenReady s k) (whenReady s' k) := by
  refine CoreAgrees.next ?_
  rw [h.inReady_eq]
  split
  · exact hk
  · exact h

theorem CoreAgrees.exec {s s' : State} (h : CoreAgrees s s') (i : Instr) : NextAgrees (exec i s) (exec i s') := by
  cases i with
  | byte d =>
    rw [Machine.exec, Machine.exec, execByte, execByte]
    refine h.whenReady ?_
    rw [h.gcnt, h.grp0, h.grp1, h.lut]
    split
    · exact h.setGroup ..
    · split
      · exact h.setGroup ..
      · exact (h.emitAll _).clearGroup
  | flush =>
    rw [Machine.exec, Machine.exec, execFlush, execFlush]
    refine h.whenReady ?_
    rw [h.gcnt, h.grp0, h.grp1, h.lut]
    split
    · exact h.clearGroup
    · split
      · exact (h.emitAll _).clearGroup
      · exact (h.emitAll _).clearGroup
  | illegalFlushData d => exact h.whenReady (h.raiseFault _)
  | illegalOp10 d => exact h.whenReady (h.raiseFault _)
  | illegalOp11 d => exact h.whenReady (h.raiseFault _)

/-- Settles O28: each event is made of operations that agree where the cores do. -/
theorem eventsReadOnlyTheCore : Obligations.EventsReadOnlyTheCore := by
  intro e s s' t t' h ht ht'
  cases e with
  | cmd w => exact (h.recordCmd w).exec (decode w) t t' ht ht'
  | take => exact h.takeHead.next t t' ht ht'
  | werr => exact h.writeFails.next t t' ht ht'
  | reset => exact h.resetCore.next t t' ht ht'

end Sys2Proof.Machine
end

section
/-! The operand side as numbers and as bits (R130, R131): a group value is its bytes side by side, and each slice is
read off the one or two bytes it lies in. -/

namespace Sys2Proof.Machine

/-- A group value is its bytes side by side, the first the most significant (R62, R130). -/
theorem group3_eq_append (b0 b1 b2 : Byte) : group3 b0 b1 b2 = b0 ++ b1 ++ b2 := by
  rw [← BitVec.setWidth_eq (b0 ++ b1 ++ b2)]
  iterate 2 rw [BitVec.setWidth_append_eq_shiftLeft_setWidth_or]
  simp [group3, BitVec.shiftLeft_or_distrib, ← BitVec.shiftLeft_add]

theorem group3_toNat (b0 b1 b2 : Byte) :
    (group3 b0 b1 b2).toNat = b0.toNat * 65536 + b1.toNat * 256 + b2.toNat := by
  rw [group3_eq_append, BitVec.toNat_append, ← Nat.shiftLeft_add_eq_or_of_lt b2.isLt, BitVec.toNat_append,
    ← Nat.shiftLeft_add_eq_or_of_lt b1.isLt]
  omega

/-! The slices of a group value, bit for bit (R131). -/

/-- `b0[7:2]`. -/
theorem slice0_group3 (b0 b1 b2 : Byte) : slice0 (group3 b0 b1 b2) = b0.extractLsb' 2 6 := by
  rw [slice0, group3_eq_append]
  iterate 2 rw [BitVec.extractLsb'_append_eq_of_le (by decide)]

/-- `{b0[1:0], b1[7:4]}`: `v[17:12]` is `{v[17:16], v[15:12]}`. -/
theorem slice1_group3 (b0 b1 b2 : Byte) :
    slice1 (group3 b0 b1 b2) = b0.extractLsb' 0 2 ++ b1.extractLsb' 4 4 := by
  have hsplit (v : GroupValue) : slice1 v = v.extractLsb' 16 2 ++ v.extractLsb' 12 4 :=
    (BitVec.extractLsb'_append_extractLsb'_eq_extractLsb' (start₁ := 12) (len₁ := 4) (len₂ := 2) rfl).symm
  rw [hsplit, group3_eq_append]
  congr 1
  · iterate 2 rw [BitVec.extractLsb'_append_eq_of_le (by decide)]
  · rw [BitVec.extractLsb'_append_eq_of_le (by decide), BitVec.extractLsb'_append_eq_of_add_le (by decide)]

/-- `{b1[3:0], b2[7:6]}`: `v[11:6]` is `{v[11:8], v[7:6]}`. -/
theorem slice2_group3 (b0 b1 b2 : Byte) :
    slice2 (group3 b0 b1 b2) = b1.extractLsb' 0 4 ++ b2.extractLsb' 6 2 := by
  have hsplit (v : GroupValue) : slice2 v = v.extractLsb' 8 4 ++ v.extractLsb' 6 2 :=
    (BitVec.extractLsb'_append_extractLsb'_eq_extractLsb' (start₁ := 6) (len₁ := 2) (len₂ := 4) rfl).symm
  rw [hsplit, group3_eq_append]
  congr 1
  · rw [BitVec.extractLsb'_append_eq_of_le (by decide), BitVec.extractLsb'_append_eq_of_add_le (by decide)]
  · rw [BitVec.extractLsb'_append_eq_of_add_le (by decide)]

/-- `b2[5:0]`. -/
theorem slice3_group3 (b0 b1 b2 : Byte) : slice3 (group3 b0 b1 b2) = b2.extractLsb' 0 6 := by
  rw [slice3, group3_eq_append, BitVec.extractLsb'_append_eq_of_add_le (by decide)]

/-! The slices of a group value as numbers: its base-64 digits (R131). -/

theorem slice0_toNat (v : GroupValue) : (slice0 v).toNat = v.toNat / 2 ^ 18 := by
  rw [slice0, BitVec.extractLsb'_toNat, Nat.shiftRight_eq_div_pow]
  omega

theorem slice1_toNat (v : GroupValue) : (slice1 v).toNat = v.toNat / 2 ^ 12 % 64 := by
  rw [slice1, BitVec.extractLsb'_toNat, Nat.shiftRight_eq_div_pow]

theorem slice2_toNat (v : GroupValue) : (slice2 v).toNat = v.toNat / 2 ^ 6 % 64 := by
  rw [slice2, BitVec.extractLsb'_toNat, Nat.shiftRight_eq_div_pow]

theorem slice3_toNat (v : GroupValue) : (slice3 v).toNat = v.toNat % 64 := by
  rw [slice3, BitVec.extractLsb'_toNat, Nat.shiftRight_zero]

/-- The characters of a full group read off the bits of its bytes (R131, R133). -/
theorem unit3_eq_fullGroupCharacters (lut : Vector Byte 64) (b0 b1 b2 : Byte) :
    unit3 lut b0 b1 b2 = fullGroupCharacters lut b0 b1 b2 := by
  rw [unit3, slice0_group3, slice1_group3, slice2_group3, slice3_group3]
  rfl

/-- The same for two bytes, the third zero. -/
theorem unit2_eq_twoByteGroupCharacters (lut : Vector Byte 64) (b0 b1 : Byte) :
    unit2 lut b0 b1 = twoByteGroupCharacters lut b0 b1 := by
  rw [unit2, group2, slice0_group3, slice1_group3, slice2_group3]
  rfl

/-- The same for one byte, the other two zero. -/
theorem unit1_eq_oneByteGroupCharacters (lut : Vector Byte 64) (b0 : Byte) :
    unit1 lut b0 = oneByteGroupCharacters lut b0 := by
  rw [unit1, group1, slice0_group3, slice1_group3]
  rfl

/-- Settles O6: with its missing bytes zero a shorter group is a full one, so all follows from `group3`. -/
theorem groupValueAndSlices : Obligations.GroupValueAndSlices := by
  refine ⟨fun b0 b1 b2 => ⟨group3_toNat b0 b1 b2, ?_, ?_⟩,
    fun v => ⟨slice0_toNat v, slice1_toNat v, slice2_toNat v, slice3_toNat v⟩,
    fun lut b0 b1 b2 => ⟨unit3_eq_fullGroupCharacters lut b0 b1 b2, unit2_eq_twoByteGroupCharacters lut b0 b1,
      unit1_eq_oneByteGroupCharacters lut b0⟩,
    fun b0 b1 => ⟨slice3_group3 b0 b1 0#8, slice2_group3 b0 0#8 0#8, slice3_group3 b0 0#8 0#8⟩⟩
  · simp [group2, group3_toNat]
  · simp [group1, group3_toNat]

end Sys2Proof.Machine
end

section
/-! Output in order: what an event does to the delivered stream followed by OBUF (R69). -/

namespace Sys2Proof.Machine

/-- Settles O24: TAKE moves OBUF's head behind the delivered stream, a command finds OBUF empty and may fill it, and no
other event but RESET writes either. -/
theorem outputIsFirstInFirstOut : Obligations.OutputIsFirstInFirstOut := by
  intro s t h
  obtain ⟨-, rfl⟩ | ⟨e, rest, hn, he⟩ := step_effect h
  · exact .inr ⟨List.prefix_rfl, [], by simp⟩
  cases he with
  | command w t hr hc =>
    obtain ⟨hdel, -⟩ := hc.frame
    obtain ⟨-, hb : s.obuf = []⟩ := (s.setPending rest).inReady_iff.1 hr
    exact .inr ⟨by simp [hdel], t.obuf, by simp [hdel, hb], fun _ => ⟨hb, hdel, w, rest, hn⟩⟩
  | takes c cs hf hb =>
    have hb : s.obuf = c :: cs := hb
    exact .inr ⟨List.prefix_append .., [], by simp [hb]⟩
  | writeFails hf hb => exact .inr ⟨List.prefix_rfl, [], by simp⟩
  | resets => exact .inl ⟨rest, hn⟩

end Sys2Proof.Machine
end

section
/-! The decoder row by row of the table of R82: decoding and encoding are inverse, and how many words each row has. -/

namespace Sys2Proof

/-! ## The rows of the table -/

theorem decode_of_op00 (w : CmdWord) (ho : opField w = 0b00#2) : decode w = .byte (dataField w) := by
  simp [decode, ho]

theorem decode_of_op01_zero (w : CmdWord) (ho : opField w = 0b01#2) (hd : dataField w = 0x00#8) :
    decode w = .flush := by
  simp [decode, ho, hd]

theorem decode_of_op01_nonzero (w : CmdWord) (ho : opField w = 0b01#2) (hd : dataField w ≠ 0x00#8) :
    decode w = .illegalFlushData (dataField w) := by
  simp [decode, ho, hd]

theorem decode_of_op10 (w : CmdWord) (ho : opField w = 0b10#2) : decode w = .illegalOp10 (dataField w) := by
  simp [decode, ho]

theorem decode_of_op11 (w : CmdWord) (ho : opField w = 0b11#2) : decode w = .illegalOp11 (dataField w) := by
  simp [decode, ho]

/-! ## Decode and encode -/

theorem decode_encode (i : Instr) (h : wellFormed i = true) : decode (encode i) = i := by
  cases i with
  | byte d => simp [encode, decode_of_op00]
  | flush => simp [encode, decode_of_op01_zero]
  | illegalFlushData d =>
    have hd : d ≠ 0x00#8 := by simpa [wellFormed] using h
    simp [encode, decode_of_op01_nonzero, hd]
  | illegalOp10 d => simp [encode, decode_of_op10]
  | illegalOp11 d => simp [encode, decode_of_op11]

/-- A word is what its instruction encodes to, for in each row OP is the row's and DATA is kept (R81). -/
theorem encode_decode (w : CmdWord) : encode (decode w) = w := by
  obtain ho | ho | ho | ho := op_cases (opField w)
  · rw [decode_of_op00 w ho, encode, ← ho, assembleWord_fields]
  · by_cases hd : dataField w = 0x00#8
    · rw [decode_of_op01_zero w ho hd, encode, ← ho, ← hd, assembleWord_fields]
    · rw [decode_of_op01_nonzero w ho hd, encode, ← ho, assembleWord_fields]
  · rw [decode_of_op10 w ho, encode, ← ho, assembleWord_fields]
  · rw [decode_of_op11 w ho, encode, ← ho, assembleWord_fields]

/-- The decoder answers well-formed instructions only: DATA 0 under OP = 01 is FLUSH. -/
theorem wellFormed_decode (w : CmdWord) : wellFormed (decode w) = true := by
  obtain ho | ho | ho | ho := op_cases (opField w)
  · rw [decode_of_op00 w ho, wellFormed]
  · by_cases hd : dataField w = 0x00#8
    · rw [decode_of_op01_zero w ho hd, wellFormed]
    · rw [decode_of_op01_nonzero w ho hd, wellFormed]
      exact bne_iff_ne.2 hd
  · rw [decode_of_op10 w ho, wellFormed]
  · rw [decode_of_op11 w ho, wellFormed]

/-- Settles O15: one way by the instruction's row, the other by the word's OP and DATA. -/
theorem decodeAndEncodeAgree : Obligations.DecodeAndEncodeAgree :=
  ⟨decode_encode, fun w => ⟨encode_decode w, wellFormed_decode w⟩⟩

/-- Settles O17: each word evaluated. -/
theorem writtenOutWordsDecode : Obligations.WrittenOutWordsDecode := ⟨rfl, rfl, rfl, rfl, rfl, rfl, rfl⟩

/-! ## How many words each row has -/

/-- The number with a row's OP above DATA is the row's word (R80). -/
theorem ofNat_eq_assembleWord (op : BitVec 2) (d : Nat) (hd : d < 256) :
    BitVec.ofNat 10 (256 * op.toNat + d) = assembleWord op (BitVec.ofNat 8 d) := by
  apply BitVec.eq_of_toNat_eq
  have ho := op.isLt
  rw [assembleWord, BitVec.toNat_append, BitVec.toNat_ofNat, BitVec.toNat_ofNat, Nat.mod_eq_of_lt (by omega),
    Nat.mod_eq_of_lt hd, ← Nat.shiftLeft_add_eq_or_of_lt hd, Nat.shiftLeft_eq, Nat.mul_comm]

/-- The 1024 numbers are, OP by OP, those of its 256 words. -/
theorem range_eq_flatMap_ops : List.range 1024 =
    [0b00#2, 0b01#2, 0b10#2, 0b11#2].flatMap fun op => (List.range 256).map (256 * op.toNat + ·) := by
  calc List.range 1024
    _ = List.range (256 + 256 + 256 + 256) := rfl
    _ = _ := by
      rw [List.range_add, List.range_add, List.range_add]
      simp

/-- How many of an OP's 256 words decode to an instruction with the property `p`. -/
def opCount (p : Instr → Bool) (op : BitVec 2) : Nat :=
  (List.range 256).countP fun d => p (decode (assembleWord op (BitVec.ofNat 8 d)))

theorem countP_decode_eq_sum_opCount (p : Instr → Bool) :
    ((List.range 1024).countP fun w => p (decode (BitVec.ofNat 10 w))) =
      opCount p 0b00#2 + opCount p 0b01#2 + opCount p 0b10#2 + opCount p 0b11#2 := by
  have block (op : BitVec 2) :
      ((List.range 256).map (256 * op.toNat + ·)).countP (fun w => p (decode (BitVec.ofNat 10 w))) = opCount p op := by
    rw [List.countP_map]
    refine List.countP_congr fun d hd => ?_
    rw [Function.comp_apply, ofNat_eq_assembleWord op d (List.mem_range.1 hd)]
  rw [range_eq_flatMap_ops, List.countP_flatMap]
  simp only [Function.comp_def, block, List.map_cons, List.map_nil, List.sum_cons, List.sum_nil]
  omega

/-- OP = 01 has one word of FLUSH and 255 of the row with nonzero DATA. -/
theorem opCount_op01 (p : Instr → Bool) : opCount p 0b01#2 =
    (if p .flush then 1 else 0) + (List.range 255).countP fun d => p (.illegalFlushData (BitVec.ofNat 8 (d + 1))) := by
  have nonzero (d : Nat) (hd : d < 255) : decode (assembleWord 0b01#2 (BitVec.ofNat 8 (d + 1))) =
      .illegalFlushData (BitVec.ofNat 8 (d + 1)) := by
    have hne : BitVec.ofNat 8 (d + 1) ≠ 0x00#8 := by bv_omega
    simp [decode_of_op01_nonzero, hne]
  have zero : decode (assembleWord 0b01#2 (BitVec.ofNat 8 0)) = .flush := by simp [decode_of_op01_zero]
  have split : List.range 256 = 0 :: (List.range 255).map Nat.succ := List.range_succ_eq_map
  rw [opCount, split, List.countP_cons, List.countP_map, zero, Nat.add_comm, Nat.add_left_cancel_iff]
  refine List.countP_congr fun d hd => ?_
  rw [Function.comp_apply, Nat.succ_eq_add_one, nonzero d (List.mem_range.1 hd)]

theorem opCount_op00 (p : Instr → Bool) :
    opCount p 0b00#2 = (List.range 256).countP fun d => p (.byte (BitVec.ofNat 8 d)) := by
  simp [opCount, decode_of_op00]

theorem opCount_op10 (p : Instr → Bool) :
    opCount p 0b10#2 = (List.range 256).countP fun d => p (.illegalOp10 (BitVec.ofNat 8 d)) := by
  simp [opCount, decode_of_op10]

theorem opCount_op11 (p : Instr → Bool) :
    opCount p 0b11#2 = (List.range 256).countP fun d => p (.illegalOp11 (BitVec.ofNat 8 d)) := by
  simp [opCount, decode_of_op11]

/-- The words of each row of the table, counted (R82). -/
theorem countP_decode (p : Instr → Bool) :
    ((List.range 1024).countP fun w => p (decode (BitVec.ofNat 10 w))) =
      ((List.range 256).countP fun d => p (.byte (BitVec.ofNat 8 d))) +
      ((if p .flush then 1 else 0) + (List.range 255).countP fun d => p (.illegalFlushData (BitVec.ofNat 8 (d + 1)))) +
      ((List.range 256).countP fun d => p (.illegalOp10 (BitVec.ofNat 8 d))) +
      (List.range 256).countP fun d => p (.illegalOp11 (BitVec.ofNat 8 d)) := by
  rw [countP_decode_eq_sum_opCount, opCount_op00, opCount_op01, opCount_op10, opCount_op11]

/-- Settles O16: the map is the table's rows, and their counts are 256 for BYTE, 1 for FLUSH, and 255, 256 and 256 for
the illegal rows. -/
theorem decodeMapAndCounts : Obligations.DecodeMapAndCounts := by
  refine ⟨fun w => ⟨decode_of_op00 w, decode_of_op01_zero w, decode_of_op01_nonzero w, decode_of_op10 w,
    decode_of_op11 w⟩, ?_, ?_, ?_⟩
  · exact (countP_decode fun | .byte _ => true | _ => false).trans (by simp)
  · exact (countP_decode fun | .flush => true | _ => false).trans (by simp)
  · exact (countP_decode fun
      | .illegalFlushData _ => true | .illegalOp10 _ => true | .illegalOp11 _ => true | _ => false).trans (by simp)

end Sys2Proof
end

section
/-! What a step runs, from the word on `CMD` to the command's meaning (R82, R101), and what the lines of a test program
stand for (R85 to R87). -/

namespace Sys2Proof.Machine

/-- A step that has a command's word to perform executes the command, its word off the list and recorded (R101). -/
theorem step_of_next_encode (i : Instr) (s : State) (es : List Event) (hi : wellFormed i = true)
    (hn : s.nextPending = some (.cmd (encode i), es)) :
    step s = exec i { s with pending := es, lastCmd := some (encode i) } := by
  calc step s
    _ = exec (decode (encode i)) ((s.setPending es).recordCmd (encode i)) := step_of_next s _ es hn
    _ = _ := by rw [decode_encode i hi]; rfl

/-- A number of 10 bits is decoded as the word it is (R36). -/
theorem decodeTableWord_of_lt {w : Nat} (h : w < 1024) : decodeTableWord 16 w = some (decode (BitVec.ofNat 10 w)) := by
  rw [decodeTableWord, Nat.mod_eq_of_lt (by omega), decodeNat, if_pos (show w < 2 ^ Config.cmdWidth from h)]

/-- A number of 10 bits is offered before all else that is pending (R36, log 6). -/
theorem State.withFetchWord_of_lt (s : State) {w : Nat} (h : w < 1024) :
    s.withFetchWord 16 w = s.setPending (.cmd (BitVec.ofNat 10 w) :: s.pending) := by
  rw [State.withFetchWord, Nat.mod_eq_of_lt (by omega), offerWord, if_pos (show w < 2 ^ Config.cmdWidth from h)]

/-- Settles O18: a step performs the event that is next, a command at the head is next while IN_READY, and decoding its
word gives the command back. -/
theorem stepRunsDecodedCommand : Obligations.StepRunsDecodedCommand := by
  refine ⟨step_of_next, step_of_next_encode, fun i s es hi hr hp => ?_,
    fun w s hw hr => ⟨decodeTableWord_of_lt hw, ?_⟩⟩
  · exact step_of_next_encode i s es hi (s.nextPending_head _ es hp hr)
  · rw [s.withFetchWord_of_lt hw]
    exact step_of_next _ (.cmd (BitVec.ofNat 10 w)) s.pending (State.nextPending_head _ _ _ rfl hr)

/-- TAKE for each waiting symbol of a running core delivers them all, in order. -/
theorem foldl_takeHead (b : List Byte) (s : State) (hf : s.fault = false) (hb : s.obuf = b) :
    b.foldl (fun s _ => takeHead s) s = { s with obuf := [], delivered := s.delivered ++ b } := by
  induction b generalizing s with
  | nil => rw [List.foldl_nil, List.append_nil, ← hb]
  | cons c rest ih =>
    rw [List.foldl_cons, takeHead_of_valid s c rest hf hb, ih (s.deliver c rest) hf rfl]
    simp [State.deliver]

/-- DRAIN delivers all that a running core offers (R87). -/
theorem drainAll_of_running (s : State) (hf : s.fault = false) :
    drainAll s = { s with obuf := [], delivered := s.delivered ++ s.obuf } :=
  foldl_takeHead s.obuf s hf rfl

/-- Settles O40: the five lines of text evaluated; REP and SOURCE expand as lists do, DRAIN is TAKE for each symbol, and
a command is not enabled while IN_READY = 0. -/
theorem programLinesExpand : Obligations.ProgramLinesExpand := by
  refine ⟨by decide +kernel, by decide +kernel, by decide +kernel, by decide +kernel, by decide +kernel,
    fun k b => ?_, fun f g => ?_, fun s hv => ?_, fun s w hr => ?_⟩
  · simp [Line.expand, BytesForm.data, commandEvents, byteWord, encode, assembleWord]
  · simp [Line.expand, commandEvents, sourceWords, flushWord, encode, assembleWord]
  · obtain ⟨hf, -⟩ := s.outValid_iff.1 hv
    rw [runTest, drainAll_of_running s hf, runTest]
  · simp [runTest, State.enabled, hr]

end Sys2Proof.Machine
end

section
/-! When a command is accepted and how long it waits (R101), and when no event of either agent is performed (R175). -/

namespace Sys2Proof.Machine

/-- A command offered while IN_READY = 0 has no step (R101, log 3). -/
theorem exec_of_not_ready (i : Instr) (s : State) (h : s.inReady = false) : exec i s = .next s := by
  cases i with
  | byte d => rw [exec, execByte, whenReady_of_not_ready s _ h]
  | flush => rw [exec, execFlush, whenReady_of_not_ready s _ h]
  | illegalFlushData d => exact whenReady_of_not_ready s _ h
  | illegalOp10 d => exact whenReady_of_not_ready s _ h
  | illegalOp11 d => exact whenReady_of_not_ready s _ h

theorem State.nextPending_mem (s : State) {e : Event} {rest : List Event} (h : s.nextPending = some (e, rest)) :
    e ∈ s.pending := by
  obtain ⟨before, after, hp, -⟩ := s.nextPending_split h
  simp [hp]

/-- Settles O12: behind a command that waits only an event of the SINK can be next: TAKE, which delivers what it takes,
or WERR. -/
theorem commandWaitsUntilReady : Obligations.CommandWaitsUntilReady := by
  refine ⟨exec_of_not_ready, fun s w es hp => ⟨fun hr => ?_, fun t hr h => ?_⟩⟩
  · exact step_of_next s (.cmd w) es (s.nextPending_head (.cmd w) es hp hr)
  · have hhost : hostPart s.pending = .cmd w :: hostPart es := by simp [hp, hostPart_cons, Event.agent]
    obtain ⟨-, rfl⟩ | ⟨e, rest, hn, he⟩ := step_effect h
    · simp [hhost]
    · obtain ⟨-, hosts, sinks⟩ := agentsKeepTheirOrder s e rest hn
      cases he with
      | command w' t hr' hc => exact absurd hr' (by simp [hr])
      | resets => exact absurd (hhost.symm.trans (hosts rfl).1) (by simp)
      | takes c cs hf hb =>
        have hb : s.obuf = c :: cs := hb
        simp [← (sinks rfl).2, hhost, hb]
      | writeFails hf hb =>
        have hmem : .werr ∈ es := by simpa [hp] using s.nextPending_mem hn
        simp [← (sinks rfl).2, hhost, hmem]

/-- There are two agents. -/
theorem Agent.eq_of_ne {a b c : Agent} (ha : a ≠ c) (hb : b ≠ c) : a = b := by
  cases c with
  | host => cases a <;> cases b <;> trivial
  | sink => cases a <;> cases b <;> trivial

/-- Where no event is chosen, the first event of each agent not already waiting is not enabled. -/
theorem not_enabled_of_nextEvent_eq_none (on : Event → Bool) (w : Option Agent) {e : Event}
    {before after : List Event} (h : nextEvent on w (before ++ e :: after) = none)
    (hw : ∀ a ∈ w, a ≠ e.agent) (hb : ∀ x ∈ before, x.agent ≠ e.agent) : on e = false := by
  induction before generalizing w with
  | nil =>
    refine Bool.eq_false_iff.2 fun hon => ?_
    cases w with
    | none => simp [nextEvent, hon] at h
    | some a => simp [nextEvent, hon, (hw a rfl).symm] at h
  | cons x before ih =>
    obtain ⟨hx, hb⟩ := List.forall_mem_cons.1 hb
    -- An event of the other agent, at the head, is passed over, and that agent waits from there on.
    have passed (hnone : nextEvent on (some x.agent) (before ++ e :: after) = none) : on e = false :=
      ih _ hnone (by simpa using hx) hb
    cases w with
    | none =>
      rw [List.cons_append, nextEvent] at h
      split at h
      case isTrue => cases h
      case isFalse => exact passed (Option.map_eq_none_iff.1 h)
    | some a =>
      obtain rfl : x.agent = a := Agent.eq_of_ne hx (hw a rfl)
      rw [List.cons_append, nextEvent, if_pos rfl] at h
      exact passed (Option.map_eq_none_iff.1 h)

/-- An agent's next event stands behind events of the other agent only. -/
theorem filter_agent_eq_cons {a : Agent} {es rest : List Event} {e : Event}
    (h : es.filter (fun x => x.agent = a) = e :: rest) :
    ∃ before after, es = before ++ e :: after ∧ ∀ x ∈ before, x.agent ≠ e.agent := by
  obtain ⟨before, after, rfl, hb, he, -⟩ := List.filter_eq_cons_iff.1 h
  obtain rfl : e.agent = a := of_decide_eq_true he
  exact ⟨before, after, rfl, by simpa using hb⟩

/-- Where no event is performed, no agent's next event is enabled. -/
theorem State.not_enabled_of_nextPending_eq_none {s : State} (hn : s.nextPending = none) (a : Agent) {e : Event}
    {rest : List Event} (h : s.pending.filter (fun x => x.agent = a) = e :: rest) : s.enabled e = false := by
  obtain ⟨before, after, hp, hb⟩ := filter_agent_eq_cons h
  rw [State.nextPending, hp] at hn
  exact not_enabled_of_nextEvent_eq_none _ none hn nofun hb

/-- Settles O26: an event performed is enabled and its agent's next (O25), and where none is, the first event of each
agent was tried. -/
theorem coreWaitsWithoutEnabledEvent : Obligations.CoreWaitsWithoutEnabledEvent := by
  refine fun s => ⟨⟨fun hn => ?_, fun ⟨hhost, hsink⟩ => ?_⟩, step_of_none s⟩
  · exact ⟨fun _ _ => State.not_enabled_of_nextPending_eq_none hn .host,
      fun _ _ => State.not_enabled_of_nextPending_eq_none hn .sink⟩
  · refine Option.eq_none_iff_forall_ne_some.2 fun ⟨e, rest⟩ hn => ?_
    obtain ⟨hon, hosts, sinks⟩ := agentsKeepTheirOrder s e rest hn
    cases ha : e.agent with
    | host => exact absurd hon (by simp [hhost e _ (hosts ha).1])
    | sink => exact absurd hon (by simp [hsink e _ (sinks ha).1])

end Sys2Proof.Machine
end

section
/-! The commands one by one: the whole next state of an accepted BYTE, FLUSH and illegal word (R102, R103, R104), and
what each command leaves unchanged. -/

namespace Sys2Proof.Machine

/-- Settles O13: a waiting command changes nothing, and each effect of an accepted one writes only the registers of its
rule. -/
theorem commandFrames : Obligations.CommandFrames := by
  intro i s t h
  cases hr : s.inReady with
  | false =>
    rw [exec_of_not_ready i s hr] at h
    cases h
    simp
  | true =>
    have he := exec_effect i hr h
    obtain ⟨hdel, hcmd, hlut, hpend⟩ := he.frame
    refine ⟨hlut, hpend, hdel, hcmd, ?_⟩
    cases he with
    | firstByte d hg => simp [hg]
    | secondByte d hg => simp [hg]
    | flushesNothing hg => simp [hg]
    | faults i hbyte hflush => simp [hbyte, hflush]
    | emitsUnit i cs hu =>
      cases hu with
      | thirdByte d h0 h1 => simp [h0, h1]
      | flushOne h1 => simp [h1]
      | flushTwo h0 h1 => simp [h0]

/-! ## A unit emitted from an empty OBUF -/

/-- Line wrap adds one terminator per line completed, and counts all characters modulo the line. -/
theorem wrap_length_and_col (n : Nat) (cs : List Byte) (h : n < Config.lineWidth) :
    (wrap n cs).1.length = cs.length + (n + cs.length) / Config.lineWidth ∧
    (wrap n cs).2 = (n + cs.length) % Config.lineWidth := by
  induction cs generalizing n with
  | nil => simp [wrap, Nat.div_eq_of_lt h, Nat.mod_eq_of_lt h]
  | cons c cs ih =>
    rw [wrap]
    split
    case isTrue he =>
      obtain ⟨hlen, hcol⟩ := ih 0 (by decide)
      simp only [Config.lineWidth] at he hlen hcol ⊢
      simp only [List.length_cons, hlen, hcol]
      omega
    case isFalse he =>
      obtain ⟨hlen, hcol⟩ := ih (n + 1) (by omega)
      simp only [Config.lineWidth] at h he hlen hcol ⊢
      simp only [List.length_cons, hlen, hcol]
      omega

/-- A unit is 4 symbols, or 5 where it completes its line. -/
theorem IsUnit.length_wrap {lut : Vector Byte 64} {cs : List Byte} (h : IsUnit lut cs) {n : Nat}
    (hn : n < Config.lineWidth) : (wrap n cs).1.length = if 72 ≤ n then 5 else 4 := by
  rw [(wrap_length_and_col n cs hn).1, h.length_eq]
  simp only [Config.lineWidth] at hn ⊢
  split <;> omega

/-- What a unit leaves that is emitted while IN_READY: its symbols in OBUF, the column 4 further on, an empty
group. -/
theorem IsUnit.clearGroup_emitAll {lut : Vector Byte 64} {cs : List Byte} (h : IsUnit lut cs) {s : State}
    (hr : s.inReady = true) (hlt : s.col.toNat < Config.lineWidth) :
    clearGroup (emitAll cs s) = { s with
      grp0 := 0x00#8, grp1 := 0x00#8, gcnt := 0#2, obuf := (wrap s.col.toNat cs).1,
      col := BitVec.ofNat 7 ((s.col.toNat + 4) % Config.lineWidth) } := by
  obtain ⟨-, hb⟩ := s.inReady_iff.1 hr
  rw [emitAll_eq_wrap cs s hlt, (wrap_length_and_col _ cs hlt).2, h.length_eq, hb]
  rfl

/-! ## BYTE and FLUSH -/

section
variable {s : State} (hr : s.inReady = true)
include hr

theorem exec_byte_first (d : Byte) (hg : s.gcnt = 0#2) : exec (.byte d) s = .next (s.setGroup d s.grp1 1#2) := by
  rw [exec, execByte, whenReady_of_ready s _ hr, if_pos hg]

theorem exec_byte_second (d : Byte) (hg : s.gcnt = 1#2) : exec (.byte d) s = .next (s.setGroup s.grp0 d 2#2) := by
  simp [exec, execByte, whenReady_of_ready s _ hr, hg]

theorem exec_byte_third (d : Byte) (hg : s.gcnt = 2#2) :
    exec (.byte d) s = .next (clearGroup (emitAll (unit3 s.lut s.grp0 s.grp1 d) s)) := by
  simp [exec, execByte, whenReady_of_ready s _ hr, hg]

theorem exec_flush_none (hg : s.gcnt = 0#2) : exec .flush s = .next (clearGroup s) := by
  rw [exec, execFlush, whenReady_of_ready s _ hr, if_pos hg]

theorem exec_flush_one (hg : s.gcnt = 1#2) :
    exec .flush s = .next (clearGroup (emitAll (unit1 s.lut s.grp0) s)) := by
  simp [exec, execFlush, whenReady_of_ready s _ hr, hg]

theorem exec_flush_two (hg : s.gcnt = 2#2) :
    exec .flush s = .next (clearGroup (emitAll (unit2 s.lut s.grp0 s.grp1) s)) := by
  simp [exec, execFlush, whenReady_of_ready s _ hr, hg]

end

/-- Under the mask of its row, a word of BYTE is 0 (R82). -/
theorem opField_of_and_mask_eq_zero (w : CmdWord) (h : w &&& 0x300#10 = 0x000#10) : opField w = 0b00#2 := by
  have hop : assembleWord (opField w) 0x00#8 = 0x000#10 := by
    rw [← Laws.EncodingRow.assembleWord_and_mask _ (dataField w), assembleWord_fields, h]
  calc opField w
    _ = opField (assembleWord (opField w) 0x00#8) := (opField_assembleWord ..).symm
    _ = 0b00#2 := by rw [hop]; rfl

/-- Settles O9: a word with OP = 00 is BYTE's, and the third byte emits the full unit from an empty OBUF. -/
theorem byteSuppliesOneByte : Obligations.ByteSuppliesOneByte := by
  refine ⟨fun w h => decode_of_op00 w (opField_of_and_mask_eq_zero w h), fun d s hr =>
    ⟨exec_byte_first hr d, exec_byte_second hr d, fun hg hlt => ?_⟩⟩
  have hu := isUnit_unit3 s.lut s.grp0 s.grp1 d
  rw [← unit3_eq_fullGroupCharacters]
  exact ⟨_, rfl, hu.length_wrap hlt, by rw [exec_byte_third hr d hg, hu.clearGroup_emitAll hr hlt]; rfl⟩

theorem clearGroup_of_gcnt_zero {s : State} (hg : s.gcnt = 0#2) :
    clearGroup s = { s with grp0 := 0x00#8, grp1 := 0x00#8 } := by
  rw [clearGroup, State.setGroup, ← hg]

/-- Clearing a group that is already zeroed is a no-op (R27). -/
theorem clearGroup_of_zeroed {s : State} (hg : s.gcnt = 0#2) (h0 : s.grp0 = 0x00#8) (h1 : s.grp1 = 0x00#8) :
    clearGroup s = s := by
  calc clearGroup s
    _ = s.setGroup s.grp0 s.grp1 s.gcnt := by rw [clearGroup, hg, h0, h1]
    _ = s := rfl

/-- Settles O10: FLUSH emits the padded unit of one or two bytes from an empty OBUF, and none where there is no byte. -/
theorem flushPadsPartialGroup : Obligations.FlushPadsPartialGroup := by
  refine ⟨rfl, fun s hr => ⟨fun hg => ?_, fun hg h0 h1 => ?_, fun hg hlt => ?_, fun hg hlt => ?_⟩⟩
  · rw [exec_flush_none hr hg, clearGroup_of_gcnt_zero hg]
  · rw [exec_flush_none hr hg, clearGroup_of_zeroed hg h0 h1]
  · have hu := isUnit_unit1 s.lut s.grp0
    rw [← unit1_eq_oneByteGroupCharacters]
    exact ⟨_, rfl, hu.length_wrap hlt, by rw [exec_flush_one hr hg, hu.clearGroup_emitAll hr hlt]; rfl⟩
  · have hu := isUnit_unit2 s.lut s.grp0 s.grp1
    rw [← unit2_eq_twoByteGroupCharacters]
    exact ⟨_, rfl, hu.length_wrap hlt, by rw [exec_flush_two hr hg, hu.clearGroup_emitAll hr hlt]; rfl⟩

/-! ## The illegal words -/

/-- An accepted command that is neither BYTE nor FLUSH takes the fault ILLEGAL_CMD and no other effect (R104, R162). -/
theorem exec_illegal (i : Instr) {s : State} (hr : s.inReady = true) (hb : ∀ d, i ≠ .byte d) (hf : i ≠ .flush) :
    exec i s = .next { s with fault := true, fcause := 2#2 } := by
  obtain ⟨t, ht⟩ := exec_next i s
  rw [ht]
  cases exec_effect i hr ht with
  | firstByte d hg => exact absurd rfl (hb d)
  | secondByte d hg => exact absurd rfl (hb d)
  | flushesNothing hg => exact absurd rfl hf
  | faults i hbyte hflush => rfl
  | emitsUnit i cs hu =>
    cases hu with
    | thirdByte d h0 h1 => exact absurd rfl (hb d)
    | flushOne h1 => exact absurd rfl hf
    | flushTwo h0 h1 => exact absurd rfl hf

theorem decode_ne_byte (w : CmdWord) (h : opField w ≠ 0b00#2) (d : Byte) : decode w ≠ .byte d := by
  intro hd
  have hw : w = assembleWord 0b00#2 d := by rw [← encode_decode w, hd, encode]
  exact h (by rw [hw, opField_assembleWord])

theorem decode_ne_flush (w : CmdWord) (h : w ≠ 0x100#10) : decode w ≠ .flush := by
  intro hd
  exact h (by rw [← encode_decode w, hd]; rfl)

/-- Settles O11: a word that is neither BYTE's nor FLUSH's decodes to neither, and both ready signals need FAULT = 0. -/
theorem illegalWordsTakePreciseFault : Obligations.IllegalWordsTakePreciseFault := by
  refine fun s hr => ⟨fun w ho hw => ?_, fun d => ⟨?_, ?_, ?_⟩, rfl, rfl⟩
  · exact exec_illegal _ hr (decode_ne_byte w ho) (decode_ne_flush w hw)
  · exact exec_illegal _ hr nofun nofun
  · exact exec_illegal _ hr nofun nofun
  · exact exec_illegal _ hr nofun nofun

end Sys2Proof.Machine
end

section
/-! The formatter `Emit`, on one character and on a list of them (R134, R139). -/

namespace Sys2Proof.Machine

/-- An accepted command leaves at most one unit with its terminator in OBUF. -/
theorem CommandEffect.obuf_length_le {i : Instr} {s t : State} (he : CommandEffect s i t) (hr : s.inReady = true)
    (hlt : s.col.toNat < Config.lineWidth) : t.obuf.length ≤ Config.obufDepth := by
  obtain ⟨-, hb⟩ := s.inReady_iff.1 hr
  cases he with
  | firstByte d hg => simp [hb]
  | secondByte d hg => simp [hb]
  | flushesNothing hg => simp [hb]
  | faults i hbyte hflush => simp [hb]
  | emitsUnit i cs hu =>
    rw [hu.isUnit.clearGroup_emitAll hr hlt, hu.isUnit.length_wrap hlt]
    split <;> decide

/-- Settles O7: the two cases of `Emit`, with the sum of its 7 bits as a number, and the bound of every command. -/
theorem emitCountsAndTerminatesLines : Obligations.EmitCountsAndTerminatesLines := by
  refine ⟨fun c s => ⟨fun h => ?_, fun h => ?_⟩, fun i s t hr hlt ht => (exec_effect i hr ht).obuf_length_le hr hlt⟩
  · simp [emit_completes_line c s h]
  · have hcol : s.col + 1#7 = BitVec.ofNat 7 (s.col.toNat + 1) := by bv_omega
    rw [emit_within_line c s (Nat.ne_of_lt h), hcol]

/-- Settles O8: by the induction over the characters of `emitAll_eq_wrap`, and `wrap` stays on the line. -/
theorem emittingIsWrapping : Obligations.EmittingIsWrapping := fun cs s h =>
  ⟨emitAll_eq_wrap cs s h, wrap_col_lt _ cs h⟩

end Sys2Proof.Machine
end

section
/-! The SINK's two events, TAKE and WERR (R135, R136), and the fault state that no step but RESET leaves (R164). -/

namespace Sys2Proof.Machine

/-- A step whose event heads what is pending performs it. -/
theorem step_of_head {s : State} {e : Event} {es : List Event} (hp : s.pending = e :: es) (he : s.enabled e = true) :
    step s = perform e (s.setPending es) :=
  step_of_next s e es (s.nextPending_head e es hp he)

theorem perform_take {s : State} {c : Byte} {rest : List Byte} (hf : s.fault = false) (hb : s.obuf = c :: rest) :
    perform .take s = .next (s.deliver c rest) :=
  congrArg Host.Outcome.next (takeHead_of_valid s c rest hf hb)

theorem perform_werr {s : State} (hv : s.outValid = true) :
    perform .werr s = .next (s.setFault Cause.writeError.code) :=
  congrArg Host.Outcome.next (writeFails_of_valid s hv)

/-- Settles O19: TAKE while OUT_VALID is `deliver` of the head symbol, and without effect otherwise. -/
theorem takeDeliversHeadSymbol : Obligations.TakeDeliversHeadSymbol := by
  refine fun s => ⟨fun c rest hf hb => ?_, fun hv => ⟨hv, congrArg Host.Outcome.next (takeHead_of_not_valid s hv)⟩⟩
  refine ⟨s.deliver c rest, perform_take hf hb, rfl, by simp [hb], ?_, fun es hp => ?_⟩
  · rintro rfl
    simp [State.outValid, State.inReady, State.deliver, hf]
  · have hv : s.outValid = true := s.outValid_iff.2 ⟨hf, by simp [hb]⟩
    rw [step_of_head hp hv]
    exact perform_take hf hb

/-- In the fault state a step that is no RESET keeps the state (R164). -/
theorem step_of_faulted {s : State} (hf : s.fault = true) (hr : Event.reset ∉ s.pending) : step s = .next s := by
  cases hn : s.nextPending with
  | none => exact step_of_none s hn
  | some p =>
    obtain ⟨e, rest⟩ := p
    have hon : s.enabled e = true := nextEvent_enabled _ _ _ hn
    cases e with
    | reset => exact absurd (s.nextPending_mem hn) hr
    | cmd w => simp [State.enabled, State.inReady, hf] at hon
    | take => simp [State.enabled, State.outValid, hf] at hon
    | werr => simp [State.enabled, State.outValid, hf] at hon

/-- A state that a step keeps is kept by any number of steps. -/
theorem steps_of_step_self {s : State} (h : step s = .next s) (k : Nat) : steps k s = .next s := by
  induction k with
  | zero => rfl
  | succ k ih => rw [steps_succ_of_next k s s h, ih]

/-- In the fault state, with no RESET to come, any number of steps keeps the state (R164). -/
theorem steps_of_faulted {s : State} (hf : s.fault = true) (hr : Event.reset ∉ s.pending) (k : Nat) :
    steps k s = .next s :=
  steps_of_step_self (step_of_faulted hf hr) k

/-- Settles O20: WERR while OUT_VALID enters the fault state, which no step leaves without RESET. -/
theorem writeErrorTakesPreciseFault : Obligations.WriteErrorTakesPreciseFault := by
  refine fun s => ⟨fun hv => ?_, fun hv => ⟨hv, congrArg Host.Outcome.next (writeFails_of_not_valid s hv)⟩⟩
  refine ⟨_, perform_werr hv, rfl, rfl, rfl, fun k u hr hu => ?_, fun es hp => ?_⟩
  · rw [steps_of_faulted (s.setFault_fault _) hr] at hu
    cases hu
    rfl
  · rw [step_of_head hp hv]
    exact perform_werr hv

end Sys2Proof.Machine
end

section
/-! The encoding of a source (R138, R142): its characters, its pads and its standard decoding. -/

namespace Sys2Proof.Machine

/-! ## Length, characters and pads -/

theorem encodeSource_length (d : List Byte) : (encodeSource d).length = characterCount d.length := by
  induction d using encodeSource.induct with
  | case1 => rfl
  | case2 b0 => exact (isUnit_unit1 alphabetRom b0).length_eq.trans (by simp [characterCount])
  | case3 b0 b1 => exact (isUnit_unit2 alphabetRom b0 b1).length_eq.trans (by simp [characterCount])
  | case4 b0 b1 b2 rest ih =>
    rw [encodeSource, List.length_append, ih, (isUnit_unit3 alphabetRom b0 b1 b2).length_eq]
    simp only [characterCount, List.length_cons]
    omega

theorem mem_encodeSource {d : List Byte} {c : Byte} (h : c ∈ encodeSource d) : c ∈ alphabetRom.toList ∨ c = padc := by
  induction d using encodeSource.induct with
  | case1 => cases h
  | case2 b0 => exact (isUnit_unit1 alphabetRom b0).chars c h
  | case3 b0 b1 => exact (isUnit_unit2 alphabetRom b0 b1).chars c h
  | case4 b0 b1 b2 rest ih =>
    obtain hc | hc := List.mem_append.1 h
    · exact (isUnit_unit3 alphabetRom b0 b1 b2).chars c hc
    · exact ih hc

/-- The pad is no character of the alphabet (R31). -/
theorem lookup_ne_padc (i : Index) : lookup alphabetRom i ≠ padc := by
  revert i
  decide

theorem padc_notMem_unit3 (b0 b1 b2 : Byte) : padc ∉ unit3 alphabetRom b0 b1 b2 := by
  simp [unit3, (lookup_ne_padc _).symm]

theorem padCount_le_characterCount (n : Nat) : padCount n ≤ characterCount n := by
  unfold padCount characterCount
  split_ifs <;> omega

/-- A full group more puts four places without a pad before an encoding (R142 (c)). -/
theorem getElem?_encodeSource_eq_padc_iff (d : List Byte) (p : Nat) :
    (encodeSource d)[p]? = some padc ↔
      p < characterCount d.length ∧ characterCount d.length ≤ p + padCount d.length := by
  induction d using encodeSource.induct generalizing p with
  | case1 => simp [encodeSource, characterCount]
  | case2 b0 =>
    match p with
    | 0 | 1 => simp [encodeSource, unit1, lookup_ne_padc, characterCount, padCount]
    | 2 | 3 => simp [encodeSource, unit1, characterCount, padCount]
    | p + 4 => simp [encodeSource, unit1, characterCount]
  | case3 b0 b1 =>
    match p with
    | 0 | 1 | 2 => simp [encodeSource, unit2, lookup_ne_padc, characterCount, padCount]
    | 3 => simp [encodeSource, unit2, characterCount, padCount]
    | p + 4 => simp [encodeSource, unit2, characterCount]
  | case4 b0 b1 b2 rest ih =>
    have hlen := (isUnit_unit3 alphabetRom b0 b1 b2).length_eq
    have hcount : characterCount (b0 :: b1 :: b2 :: rest).length = characterCount rest.length + 4 := by
      simp only [characterCount, List.length_cons]
      omega
    have hpads : padCount (b0 :: b1 :: b2 :: rest).length = padCount rest.length := by
      simp [padCount, Nat.add_assoc]
    rw [encodeSource, hcount, hpads]
    by_cases hp : p < 4
    · rw [List.getElem?_append_left (hlen ▸ hp)]
      have hfew := padCount_le_characterCount rest.length
      exact iff_of_false (fun h => padc_notMem_unit3 b0 b1 b2 (List.mem_of_getElem? h)) (by omega)
    · rw [List.getElem?_append_right (by omega), hlen, ih]
      omega

/-- Settles O37: each clause by the groups of three bytes. -/
theorem encodingLengthAndPads : Obligations.EncodingLengthAndPads := fun d =>
  ⟨encodeSource_length d, fun _ => mem_encodeSource, getElem?_encodeSource_eq_padc_iff d⟩

/-! ## Standard decoding -/

@[simp] theorem indexOfChar_lookup (i : Index) : indexOfChar (lookup alphabetRom i) = some i := by
  revert i
  decide

@[simp] theorem indexOfChar_padc : indexOfChar padc = none := by decide

theorem joinIndices_eq_append (i0 i1 i2 i3 : Index) : joinIndices i0 i1 i2 i3 = i0 ++ i1 ++ i2 ++ i3 := by
  rw [← BitVec.setWidth_eq (i0 ++ i1 ++ i2 ++ i3)]
  iterate 3 rw [BitVec.setWidth_append_eq_shiftLeft_setWidth_or]
  simp [joinIndices, BitVec.shiftLeft_or_distrib, ← BitVec.shiftLeft_add]

/-- Joining the slices of a group value gives it back (R131). -/
theorem joinIndices_slices (v : GroupValue) : joinIndices (slice0 v) (slice1 v) (slice2 v) (slice3 v) = v := by
  rw [joinIndices_eq_append, slice0, slice1, slice2, slice3]
  iterate 3 rw [BitVec.extractLsb'_append_extractLsb'_eq_extractLsb' (by decide)]
  exact BitVec.extractLsb'_eq_self

/-- The bytes of a group value are those it was made of (R62, R130). -/
theorem groupBytes_group3 (b0 b1 b2 : Byte) : groupBytes (group3 b0 b1 b2) = [b0, b1, b2] := by
  have h0 : (b0 ++ b1 ++ b2).extractLsb' 16 8 = b0 := by
    iterate 2 rw [BitVec.extractLsb'_append_eq_of_le (by decide)]
    exact BitVec.extractLsb'_eq_self
  have h1 : (b0 ++ b1 ++ b2).extractLsb' 8 8 = b1 := by
    rw [BitVec.extractLsb'_append_eq_of_le (by decide)]
    exact BitVec.extractLsb'_append_eq_right
  have h2 : (b0 ++ b1 ++ b2).extractLsb' 0 8 = b2 := BitVec.extractLsb'_append_eq_right
  rw [groupBytes, group3_eq_append, h0, h1, h2]

/-! Decoding one unit: its indices are the slices of the group value, with 0 for each slice that is padded away. -/

theorem decodeStandard_unit3_append (b0 b1 b2 : Byte) (cs : List Byte) :
    decodeStandard (unit3 alphabetRom b0 b1 b2 ++ cs) = (decodeStandard cs).map ([b0, b1, b2] ++ ·) := by
  simp [unit3, decodeStandard, joinIndices_slices, groupBytes_group3]

theorem decodeStandard_unit2 (b0 b1 : Byte) : decodeStandard (unit2 alphabetRom b0 b1) = some [b0, b1] := by
  have hpad : slice3 (group2 b0 b1) = 0#6 := slice3_group3 b0 b1 0#8
  have hjoin := joinIndices_slices (group2 b0 b1)
  rw [hpad] at hjoin
  have hbytes : groupBytes (group2 b0 b1) = [b0, b1, 0#8] := groupBytes_group3 b0 b1 0#8
  simp [unit2, decodeStandard, hjoin, hbytes]

theorem decodeStandard_unit1 (b0 : Byte) : decodeStandard (unit1 alphabetRom b0) = some [b0] := by
  have hpad2 : slice2 (group1 b0) = 0#6 := slice2_group3 b0 0#8 0#8
  have hpad3 : slice3 (group1 b0) = 0#6 := slice3_group3 b0 0#8 0#8
  have hjoin := joinIndices_slices (group1 b0)
  rw [hpad2, hpad3] at hjoin
  have hbytes : groupBytes (group1 b0) = [b0, 0#8, 0#8] := groupBytes_group3 b0 0#8 0#8
  simp [unit1, decodeStandard, hjoin, hbytes]

theorem decodeStandard_encodeSource (d : List Byte) : decodeStandard (encodeSource d) = some d := by
  induction d using encodeSource.induct with
  | case1 => rfl
  | case2 b0 => exact decodeStandard_unit1 b0
  | case3 b0 b1 => exact decodeStandard_unit2 b0 b1
  | case4 b0 b1 b2 rest ih =>
    rw [encodeSource, decodeStandard_unit3_append, ih]
    rfl

/-- Settles O38: unit by unit; what can be decoded is injective; and the one byte 0 has 4 characters, which have 8. -/
theorem standardDecodingRecoversSource : Obligations.StandardDecodingRecoversSource := by
  refine ⟨decodeStandard_encodeSource, fun d d' h => ?_, [0x00#8], by decide⟩
  have hsome : some d = some d' := by rw [← decodeStandard_encodeSource d, h, decodeStandard_encodeSource]
  exact Option.some.inj hsome

end Sys2Proof.Machine
end

section
/-! The lines of a run's stream (R143): where line wrap puts its terminators. -/

namespace Sys2Proof.Machine

/-- Without its terminators a wrapped stream is its characters in order. -/
theorem filter_wrap (n : Nat) {cs : List Byte} (h : lf ∉ cs) : (wrap n cs).1.filter (· != lf) = cs := by
  induction cs generalizing n with
  | nil => rfl
  | cons c cs ih =>
    obtain ⟨hc, hcs⟩ : lf ≠ c ∧ lf ∉ cs := by simpa using h
    rw [wrap]
    split <;> simp [hc.symm, ih _ hcs]

/-- From column `n` the terminators are the symbols at the places `p` with `n + p` the last of 77. -/
theorem getElem?_wrap_eq_lf_iff {n : Nat} (hn : n < Config.lineWidth) {cs : List Byte} (h : lf ∉ cs) (p : Nat) :
    (wrap n cs).1[p]? = some lf ↔ p < (wrap n cs).1.length ∧ (n + p) % 77 = 76 := by
  induction cs generalizing n p with
  | nil => simp [wrap]
  | cons c cs ih =>
    obtain ⟨hc, hcs⟩ : lf ≠ c ∧ lf ∉ cs := by simpa using h
    rw [wrap]
    split
    case isTrue he =>
      have ih0 (p : Nat) := ih (by decide : 0 < Config.lineWidth) hcs p
      simp only [Config.lineWidth] at he
      match p with
      | 0 => simp [hc.symm]; omega
      | 1 => simp; omega
      | p + 2 => simp [ih0]; omega
    case isFalse he =>
      have ih1 (p : Nat) := ih (by omega : n + 1 < Config.lineWidth) hcs p
      simp only [Config.lineWidth] at hn he
      match p with
      | 0 => simp [hc.symm]; omega
      | p + 1 => simp [ih1]; omega

theorem lf_notMem_runCharacters (sources : List (List Byte)) : lf ∉ runCharacters sources := by
  intro h
  obtain ⟨d, -, hlf⟩ := List.mem_flatMap.1 h
  have hchar := mem_encodeSource hlf
  revert hchar
  decide

/-- Settles O39: line wrap from column 0; its terminators are what its length has over its characters. -/
theorem runStreamHasFullLines : Obligations.RunStreamHasFullLines := by
  rintro sources k rfl
  have hlf := lf_notMem_runCharacters sources
  have hfilter : (runStream sources).1.filter (· != lf) = runCharacters sources := filter_wrap 0 hlf
  obtain ⟨hlen, hcol⟩ := wrap_length_and_col 0 (runCharacters sources) (by decide)
  rw [Nat.zero_add, ← runStream] at hlen hcol
  refine ⟨?_, hlen, fun p => ?_, hfilter, hcol⟩
  · have hsum := (runStream sources).1.length_eq_length_filter_add (· == lf)
    have hchars : ((runStream sources).1.filter (!· == lf)).length = _ := congrArg List.length hfilter
    rw [← List.countP_eq_length_filter, ← List.count, hchars, hlen, Nat.add_comm] at hsum
    exact (Nat.add_right_cancel hsum).symm
  · have hiff := getElem?_wrap_eq_lf_iff (n := 0) (by decide) hlf p
    rwa [← runStream, hlen, Nat.zero_add] at hiff

end Sys2Proof.Machine
end

section
/-! What a run still has to deliver. The group held, the column and the HOST's commands to come fix all that the core
will emit (R138, R139), in whatever order the SINK takes it: a step but RESET only moves symbols along. -/

namespace Sys2Proof.Machine

/-! ## The characters of a list of commands -/

/-- The bytes of the current group (R21, R22, R24). -/
def State.held (s : State) : List Byte :=
  if s.gcnt = 0#2 then [] else if s.gcnt = 1#2 then [s.grp0] else [s.grp0, s.grp1]

/-- The characters a command emits when the bytes `h` are held. -/
def emitted (h : List Byte) : Instr → List Byte
  | .byte d => if h.length < 2 then [] else encodeSource (h ++ [d])
  | .flush => encodeSource h
  | _ => []

/-- The bytes held after a command when the bytes `h` were held before. -/
def heldAfter (h : List Byte) : Instr → List Byte
  | .byte d => if h.length < 2 then h ++ [d] else []
  | .flush => []
  | _ => h

/-- The characters the commands among the events emit, one after the other, when the bytes `h` are held. -/
def charactersToCome (h : List Byte) : List Event → List Byte
  | [] => []
  | .cmd w :: es => emitted h (decode w) ++ charactersToCome (heldAfter h (decode w)) es
  | _ :: es => charactersToCome h es

/-- The last command among the events, or the one before them. -/
def lastWord (last : Option CmdWord) : List Event → Option CmdWord
  | [] => last
  | .cmd w :: es => lastWord (some w) es
  | _ :: es => lastWord last es

section
variable {s : State}

theorem State.held_of_zero (hg : s.gcnt = 0#2) : s.held = [] := if_pos hg

theorem State.held_of_one (hg : s.gcnt = 1#2) : s.held = [s.grp0] := by simp [State.held, hg]

theorem State.held_of_two (h0 : s.gcnt ≠ 0#2) (h1 : s.gcnt ≠ 1#2) : s.held = [s.grp0, s.grp1] := by
  simp [State.held, h0, h1]

@[simp] theorem State.setGroup_one_held (g0 g1 : Byte) : (s.setGroup g0 g1 1#2).held = [g0] := rfl
@[simp] theorem State.setGroup_two_held (g0 g1 : Byte) : (s.setGroup g0 g1 2#2).held = [g0, g1] := rfl
@[simp] theorem clearGroup_held : (clearGroup s).held = [] := rfl
@[simp] theorem State.setFault_held (k : BitVec 2) : (s.setFault k).held = s.held := rfl
@[simp] theorem State.deliver_held (c : Byte) (rest : List Byte) : (s.deliver c rest).held = s.held := rfl
@[simp] theorem State.setPending_held (es : List Event) : (s.setPending es).held = s.held := rfl
@[simp] theorem State.recordCmd_held (w : CmdWord) : (s.recordCmd w).held = s.held := rfl

/-- A unit is what its command emits from the bytes held, and no byte is held after it. -/
theorem EmittedUnit.emitted_eq {i : Instr} {cs : List Byte} (hu : EmittedUnit s i cs) (hlut : s.lut = alphabetRom) :
    emitted s.held i = cs ∧ heldAfter s.held i = [] := by
  cases hu with
  | thirdByte d h0 h1 => simp [State.held_of_two h0 h1, emitted, heldAfter, encodeSource, hlut]
  | flushOne h1 => simp [State.held_of_one h1, emitted, heldAfter, encodeSource, hlut]
  | flushTwo h0 h1 => simp [State.held_of_two h0 h1, emitted, heldAfter, encodeSource, hlut]

/-- What an accepted command does, in terms of the bytes held: it emits their characters, wrapped. -/
theorem CommandEffect.emits {i : Instr} {t : State} (he : CommandEffect s i t) (hlut : s.lut = alphabetRom)
    (hb : s.obuf = []) (hlt : s.col.toNat < Config.lineWidth) :
    wrap s.col.toNat (emitted s.held i) = (t.obuf, t.col.toNat) ∧ t.held = heldAfter s.held i := by
  cases he with
  | firstByte d hg => simp [State.held_of_zero hg, emitted, heldAfter, wrap, hb]
  | secondByte d hg => simp [State.held_of_one hg, emitted, heldAfter, wrap, hb]
  | flushesNothing hg => simp [State.held_of_zero hg, emitted, heldAfter, encodeSource, wrap, hb]
  | emitsUnit i cs hu =>
    obtain ⟨hemit, hheld⟩ := hu.emitted_eq hlut
    have hcol : (BitVec.ofNat 7 (wrap s.col.toNat cs).2).toNat = (wrap s.col.toNat cs).2 :=
      Nat.mod_eq_of_lt (Nat.lt_trans (wrap_col_lt _ cs hlt) (by decide))
    rw [hemit, hheld, emitAll_eq_wrap cs s hlt, clearGroup_obuf, clearGroup_col, hcol, hb]
    exact ⟨rfl, rfl⟩
  | faults i hbyte hflush =>
    cases i with
    | byte d => exact absurd rfl (hbyte d)
    | flush => exact absurd rfl hflush
    | illegalFlushData d | illegalOp10 d | illegalOp11 d => simp [emitted, heldAfter, wrap, hb]

end

/-! ## The forecast of a run -/

/-- What a run comes to when all commands to come are accepted and all symbols taken. -/
structure Forecast where
  stream : List Byte
  column : Nat
  lastCmd : Option CmdWord

/-- Line wrap of the characters that the HOST's commands to come emit. -/
def State.wrapToCome (s : State) : List Byte × Nat :=
  wrap s.col.toNat (charactersToCome s.held (hostPart s.pending))

/-- The forecast from a state: what was delivered, what waits in OBUF, what the commands to come emit. -/
def State.forecast (s : State) : Forecast where
  stream := s.delivered ++ s.obuf ++ s.wrapToCome.1
  column := s.wrapToCome.2
  lastCmd := lastWord s.lastCmd (hostPart s.pending)

/-- No event touches what is pending. -/
theorem EventEffect.pending_eq {e : Event} {s t : State} (he : EventEffect s e t) : t.pending = s.pending := by
  cases he with
  | command w t hr hc =>
    obtain ⟨-, -, -, hpend⟩ := hc.frame
    exact hpend
  | takes c rest hf hb => rfl
  | writeFails hf hb => rfl
  | resets => rfl

/-- No event but RESET changes the forecast. -/
theorem EventEffect.forecast_eq {e : Event} {rest : List Event} {s t : State} (h : Inv s)
    (hn : s.nextPending = some (e, rest)) (he : EventEffect (s.setPending rest) e t) (hreset : e ≠ .reset) :
    t.forecast = s.forecast := by
  obtain ⟨-, hosts, sinks⟩ := agentsKeepTheirOrder s e rest hn
  cases he with
  | command w t hr hc =>
    obtain ⟨hdel, hcmd, -, hpend⟩ := hc.frame
    obtain ⟨hhost, -⟩ := hosts rfl
    obtain ⟨-, hb⟩ := s.inReady_iff.1 hr
    obtain ⟨hwrap : wrap s.col.toNat (emitted s.held (decode w)) = _, hheld⟩ := hc.emits h.rom hb h.col_lt
    have hsplit : s.wrapToCome = (t.obuf ++ t.wrapToCome.1, t.wrapToCome.2) := by
      rw [State.wrapToCome, hhost, charactersToCome, wrap_append, hwrap, State.wrapToCome, hheld, hpend]
      rfl
    simp [State.forecast, hsplit, hdel, hcmd, hpend, hhost, hb, lastWord]
  | takes c cs hf hb =>
    have hb : s.obuf = c :: cs := hb
    obtain ⟨-, hhost⟩ := sinks rfl
    simp [State.forecast, State.wrapToCome, hhost, hb]
  | writeFails hf hb =>
    obtain ⟨-, hhost⟩ := sinks rfl
    simp [State.forecast, State.wrapToCome, hhost]
  | resets => exact absurd rfl hreset

theorem State.nextPending_subset (s : State) {e : Event} {rest : List Event} (h : s.nextPending = some (e, rest)) :
    rest ⊆ s.pending := by
  obtain ⟨before, after, hp, rfl, -⟩ := s.nextPending_split h
  rw [hp]
  exact ((List.sublist_cons_self e after).append_left before).subset

/-- Of a run with no RESET to come, a step keeps the forecast. -/
theorem step_forecast {s t : State} (h : Inv s) (hr : Event.reset ∉ s.pending) (hst : step s = .next t) :
    Event.reset ∉ t.pending ∧ t.forecast = s.forecast := by
  obtain ⟨-, rfl⟩ | ⟨e, rest, hn, he⟩ := step_effect hst
  · exact ⟨hr, rfl⟩
  · have hpend : t.pending = rest := he.pending_eq
    have hne : e ≠ .reset := ne_of_mem_of_not_mem (s.nextPending_mem hn) hr
    exact ⟨hpend ▸ fun hmem => hr (s.nextPending_subset hn hmem), he.forecast_eq h hn hne⟩

/-- Along a run with no RESET to come the forecast stays. -/
theorem steps_forecast {s t : State} (h : Inv s) (hr : Event.reset ∉ s.pending) {k : Nat} (hst : steps k s = .next t) :
    Inv t ∧ t.forecast = s.forecast := by
  have keeps (u v : State) (hu : Inv u ∧ Event.reset ∉ u.pending ∧ u.forecast = s.forecast) (huv : step u = .next v) :
      Inv v ∧ Event.reset ∉ v.pending ∧ v.forecast = s.forecast := by
    obtain ⟨hinv, hru, hfu⟩ := hu
    obtain ⟨hrv, hfv⟩ := step_forecast hinv hru huv
    exact ⟨stepKeepsInvariant u v hinv huv, hrv, hfv.trans hfu⟩
  obtain ⟨hinv, -, hf⟩ := steps_keep keeps k ⟨h, hr, rfl⟩ hst
  exact ⟨hinv, hf⟩

/-- What was delivered begins what will have been. -/
theorem State.delivered_prefix_forecast (s : State) : s.delivered <+: s.forecast.stream := by
  simp [State.forecast, List.append_assoc]

end Sys2Proof.Machine
end

section
/-! The characters of framed sources (R138, R141, R185), in whole and up to where the HOST stops. -/

namespace Sys2Proof.Machine

/-- Of some of the commands come some of the characters. -/
theorem charactersToCome_prefix (h : List Byte) {es fs : List Event} (hp : es <+: fs) :
    charactersToCome h es <+: charactersToCome h fs := by
  induction es generalizing h fs with
  | nil => exact List.nil_prefix
  | cons e es ih =>
    obtain ⟨gs, rfl⟩ := hp
    have hgs : es <+: es ++ gs := List.prefix_append es gs
    cases e with
    | cmd w => exact (List.prefix_append_right_inj _).2 (ih _ hgs)
    | take => exact (ih h hgs :)
    | werr => exact (ih h hgs :)
    | reset => exact (ih h hgs :)

/-- Of some of the characters come some of the symbols. -/
theorem wrap_prefix (n : Nat) {cs ds : List Byte} (hp : cs <+: ds) : (wrap n cs).1 <+: (wrap n ds).1 := by
  obtain ⟨es, rfl⟩ := hp
  rw [wrap_append]
  exact List.prefix_append ..

@[simp] theorem decode_byteWord (d : Byte) : decode (byteWord d) = .byte d := decode_encode _ rfl

@[simp] theorem decode_flushWord : decode flushWord = .flush := decode_encode _ rfl

theorem sourceWords_cons (b : Byte) (d : List Byte) : sourceWords (b :: d) = byteWord b :: sourceWords d := rfl

/-- The rest of a source completes the bytes held, its FLUSH ends it (R138). -/
theorem charactersToCome_sourceWords (h d : List Byte) (hh : h.length ≤ 2) (es : List Event) :
    charactersToCome h ((sourceWords d).map Event.cmd ++ es) = encodeSource (h ++ d) ++ charactersToCome [] es := by
  induction d generalizing h with
  | nil => simp [sourceWords, charactersToCome, emitted, heldAfter]
  | cons b d ih =>
    simp only [sourceWords_cons, List.map_cons, List.cons_append, charactersToCome, decode_byteWord]
    by_cases hlt : h.length < 2
    · simp [emitted, heldAfter, hlt, ih (h ++ [b]) (by simpa using hlt)]
    · obtain ⟨b0, b1, rfl⟩ := List.length_eq_two.1 (by omega : h.length = 2)
      simp [emitted, heldAfter, ih, encodeSource]

theorem charactersToCome_runWords (sources : List (List Byte)) :
    charactersToCome [] ((runWords sources).map Event.cmd) = runCharacters sources := by
  induction sources with
  | nil => rfl
  | cons d sources ih =>
    rw [runWords, List.flatMap_cons, List.map_append, charactersToCome_sourceWords [] d (by simp), ← runWords, ih]
    rfl

/-- The last command of a source is its FLUSH (R185). -/
theorem lastWord_sourceWords (last : Option CmdWord) (d : List Byte) (es : List Event) :
    lastWord last ((sourceWords d).map Event.cmd ++ es) = lastWord (some flushWord) es := by
  induction d generalizing last with
  | nil => rfl
  | cons b d ih => exact ih (some (byteWord b))

theorem lastWord_runWords (last : Option CmdWord) (sources : List (List Byte)) :
    lastWord last ((runWords sources).map Event.cmd) = if sources = [] then last else some flushWord := by
  induction sources generalizing last with
  | nil => rfl
  | cons d sources ih =>
    rw [runWords, List.flatMap_cons, List.map_append, lastWord_sourceWords, ← runWords, ih]
    simp

/-- The words of framed sources are BYTEs and FLUSHes. -/
theorem decode_of_mem_runWords {sources : List (List Byte)} {w : CmdWord} (h : w ∈ runWords sources) :
    (∃ d, decode w = .byte d) ∨ decode w = .flush := by
  obtain ⟨d, -, hw⟩ := List.mem_flatMap.1 h
  obtain hb | hf := List.mem_append.1 hw
  · obtain ⟨b, -, rfl⟩ := List.mem_map.1 hb
    exact .inl ⟨b, decode_byteWord b⟩
  · obtain rfl := List.mem_singleton.1 hf
    exact .inr decode_flushWord

theorem reset_notMem_of_hostPart {es : List Event} {ws : List CmdWord} (h : hostPart es <+: ws.map Event.cmd) :
    Event.reset ∉ es := by
  intro hmem
  have hhost : Event.reset ∈ hostPart es := List.mem_filter.2 ⟨hmem, rfl⟩
  simpa using h.subset hhost

/-- Settles O34: the forecast stays, and what comes of some of the commands begins what comes of all. -/
theorem deliveredIsPrefixOfRun : Obligations.DeliveredIsPrefixOfRun := by
  intro sources es k t hhost ht
  obtain ⟨-, hforecast⟩ := steps_forecast (inv_fresh es) (reset_notMem_of_hostPart hhost) ht
  calc t.delivered
    _ <+: t.forecast.stream := t.delivered_prefix_forecast
    _ = (wrap 0 (charactersToCome [] (hostPart es))).1 := by rw [hforecast]; rfl
    _ <+: (wrap 0 (charactersToCome [] ((runWords sources).map Event.cmd))).1 :=
      wrap_prefix 0 (charactersToCome_prefix [] hhost)
    _ = (runStream sources).1 := by rw [charactersToCome_runWords]; rfl

end Sys2Proof.Machine
end

section
/-! A run on its course: each step performs an event until none is next, or the SINK reports its write error (R136). -/

namespace Sys2Proof.Machine

/-! ## When no event is next -/

/-- An accepted event of the HOST: a command while IN_READY, RESET always (R101, R180). -/
theorem State.enabled_of_host {s : State} (hr : s.inReady = true) {e : Event} (he : e.agent = .host) :
    s.enabled e = true := by
  cases e with
  | cmd w => exact hr
  | reset => rfl
  | take => cases he
  | werr => cases he

/-- An event of the SINK while OUT_VALID (R135, R136). -/
theorem State.enabled_of_sink {s : State} (hv : s.outValid = true) {e : Event} (he : e.agent = .sink) :
    s.enabled e = true := by
  cases e with
  | cmd w => cases he
  | reset => cases he
  | take => exact hv
  | werr => exact hv

theorem agent_of_hostPart {es rest : List Event} {e : Event} (h : hostPart es = e :: rest) : e.agent = .host := by
  have hmem : e ∈ hostPart es := h ▸ List.mem_cons_self
  simpa [hostPart, Event.isHost] using (List.mem_filter.1 hmem).2

theorem agent_of_sinkPart {es rest : List Event} {e : Event} (h : sinkPart es = e :: rest) : e.agent = .sink := by
  have hmem : e ∈ sinkPart es := h ▸ List.mem_cons_self
  simpa [sinkPart, Event.isSink] using (List.mem_filter.1 hmem).2

theorem pending_eq_nil {es : List Event} (hhost : hostPart es = []) (hsink : sinkPart es = []) : es = [] := by
  rw [hostPart_eq_nil_iff] at hhost
  rw [sinkPart_eq_nil_iff] at hsink
  refine List.eq_nil_iff_forall_not_mem.2 fun e he => ?_
  cases ha : e.agent with
  | host => exact hhost e he ha
  | sink => exact hsink e he ha

/-- Where no event is next, a running core has nothing to come: from the SINK while it offers a symbol, from the HOST
otherwise (R101, R135). -/
theorem State.waiting_cases {s : State} (hf : s.fault = false) (hn : s.nextPending = none) :
    (s.obuf ≠ [] ∧ sinkPart s.pending = []) ∨ (s.obuf = [] ∧ hostPart s.pending = []) := by
  obtain ⟨hhost, hsink⟩ := (coreWaitsWithoutEnabledEvent s).1.1 hn
  by_cases hb : s.obuf = []
  · refine .inr ⟨hb, ?_⟩
    cases hp : hostPart s.pending with
    | nil => rfl
    | cons e es =>
      have hon := State.enabled_of_host (s.inReady_iff.2 ⟨hf, hb⟩) (agent_of_hostPart hp)
      exact absurd hon (by simp [hhost e es hp])
  · refine .inl ⟨hb, ?_⟩
    cases hp : sinkPart s.pending with
    | nil => rfl
    | cons e es =>
      have hon := State.enabled_of_sink (s.outValid_iff.2 ⟨hf, hb⟩) (agent_of_sinkPart hp)
      exact absurd hon (by simp [hsink e es hp])

theorem State.effect_of_next {s t : State} {e : Event} {rest : List Event} (hn : s.nextPending = some (e, rest))
    (hst : step s = .next t) : EventEffect (s.setPending rest) e t := by
  rw [step_of_next s e rest hn] at hst
  exact perform_effect e ((s.setPending_enabled rest e).trans (nextEvent_enabled _ _ _ hn)) hst

theorem State.length_of_nextPending {s : State} {e : Event} {rest : List Event} (h : s.nextPending = some (e, rest)) :
    s.pending.length = rest.length + 1 := by
  obtain ⟨before, after, hp, rfl, -⟩ := s.nextPending_split h
  simp [hp, Nat.add_assoc]

/-! ## A run on its course -/

/-- An event of a run over framed sources: no RESET, and no command but BYTE and FLUSH (R185, R190). -/
def Event.OfSources (e : Event) : Prop :=
  e ≠ .reset ∧ ∀ w, e = .cmd w → (∃ d, decode w = .byte d) ∨ decode w = .flush

/-- A running core in a run over framed sources, whose SINK brings the delivered stream to `n` symbols by TAKE and then
has the events `tail`, no TAKE first. -/
structure OnCourse (n : Nat) (tail : List Event) (s : State) : Prop where
  inv : Inv s
  running : s.fault = false
  events : ∀ e ∈ s.pending, e.OfSources
  sink : ∃ m, sinkPart s.pending = List.replicate m Event.take ++ tail ∧ s.delivered.length + m = n
  tail_head : tail.head? ≠ some .take

/-- The SINK has failed after `n` symbols, and no RESET is to come. -/
structure FailedAfter (n : Nat) (s : State) : Prop where
  faulted : s.fault = true
  reset_notMem : Event.reset ∉ s.pending
  length_eq : s.delivered.length = n

/-- BYTE and FLUSH take no fault (R165). -/
theorem CommandEffect.fault_eq {i : Instr} {s t : State} (he : CommandEffect s i t)
    (hi : (∃ d, i = .byte d) ∨ i = .flush) : t.fault = s.fault := by
  cases he with
  | firstByte d hg => rfl
  | secondByte d hg => rfl
  | flushesNothing hg => rfl
  | emitsUnit i cs hu => simp
  | faults i hbyte hflush => simp [hbyte, hflush] at hi

section
variable {n : Nat} {tail : List Event} {s : State} (h : OnCourse n tail s)
include h

theorem OnCourse.reset_notMem : Event.reset ∉ s.pending := fun hmem =>
  (h.events _ hmem).1 rfl

/-- An event performed keeps the run on its course, but for a write error once the TAKEs are over. -/
theorem OnCourse.step_keeps {t : State} {e : Event} {rest : List Event} (hn : s.nextPending = some (e, rest))
    (hst : step s = .next t) : OnCourse n tail t ∨ (FailedAfter n t ∧ tail ≠ []) := by
  obtain ⟨-, hosts, sinks⟩ := agentsKeepTheirOrder s e rest hn
  obtain ⟨m, hsink, hm⟩ := h.sink
  have he := State.effect_of_next hn hst
  have hpend : t.pending = rest := he.pending_eq
  have hinv : Inv t := stepKeepsInvariant s t h.inv hst
  have hevents : ∀ x ∈ t.pending, x.OfSources := fun x hx => h.events x (s.nextPending_subset hn (hpend ▸ hx))
  cases he with
  | command w t hr hc =>
    obtain ⟨hdel, -⟩ := hc.frame
    have hlegal := (h.events _ (s.nextPending_mem hn)).2 w rfl
    obtain ⟨-, hrest⟩ := hosts rfl
    exact .inl ⟨hinv, (hc.fault_eq hlegal).trans h.running, hevents,
      ⟨m, by rw [hpend, ← hrest, hsink], by rw [hdel]; exact hm⟩, h.tail_head⟩
  | takes c cs hf hb =>
    obtain ⟨hrest, -⟩ := sinks rfl
    rw [hsink] at hrest
    cases m with
    | zero => exact absurd (congrArg List.head? hrest) h.tail_head
    | succ m =>
      have hrest : List.replicate m Event.take ++ tail = sinkPart rest := List.tail_eq_of_cons_eq hrest
      exact .inl ⟨hinv, h.running, hevents, ⟨m, by rw [hpend, hrest], by simp; omega⟩, h.tail_head⟩
  | writeFails hf hb =>
    obtain ⟨hrest, -⟩ := sinks rfl
    rw [hsink] at hrest
    cases m with
    | zero =>
      have htail : tail = .werr :: sinkPart rest := hrest
      exact .inr ⟨⟨rfl, fun hmem => (hevents _ hmem).1 rfl, hm⟩, by simp [htail]⟩
    | succ m => cases List.head_eq_of_cons_eq hrest
  | resets => exact absurd (s.nextPending_mem hn) h.reset_notMem

end

/-- Each step performs an event until none is next: after as many steps as there are events none is, or the SINK has
failed. -/
theorem OnCourse.run {n : Nat} {tail : List Event} {s : State} (h : OnCourse n tail s) :
    ∃ t, steps s.pending.length s = .next t ∧
      ((OnCourse n tail t ∧ t.nextPending = none) ∨ (FailedAfter n t ∧ tail ≠ [])) := by
  induction hk : s.pending.length generalizing s with
  | zero =>
    have hp : s.pending = [] := List.length_eq_zero_iff.1 hk
    exact ⟨s, rfl, .inl ⟨h, by rw [State.nextPending, hp, nextEvent]⟩⟩
  | succ k ih =>
    cases hn : s.nextPending with
    | none => exact ⟨s, steps_of_step_self (step_of_none s hn) _, .inl ⟨h, hn⟩⟩
    | some p =>
      obtain ⟨e, rest⟩ := p
      obtain ⟨t, hst⟩ : ∃ t, step s = .next t := step_of_next s e rest hn ▸ perform_next e _
      have hpend : t.pending = rest := (State.effect_of_next hn hst).pending_eq
      have hlen := State.length_of_nextPending hn
      rw [steps_succ_of_next k s t hst]
      obtain hcourse | ⟨hfail, htail⟩ := h.step_keeps hn hst
      · exact ih hcourse (by rw [hpend]; omega)
      · exact ⟨t, steps_of_faulted hfail.faulted hfail.reset_notMem k, .inr ⟨hfail, htail⟩⟩

end Sys2Proof.Machine
end

section
/-! Whole runs over framed sources, from an idle core: drained to the end (R138, R139, R141), or up to a write error
(R136, R189). -/

namespace Sys2Proof.Machine

/-- A core between sources: running, with no symbol waiting and no byte held. -/
structure IsIdle (s : State) : Prop where
  inv : Inv s
  ready : s.inReady = true
  gcnt : s.gcnt = 0#2

theorem isIdle_fresh (es : List Event) : IsIdle (fresh alphabetRom es) := ⟨inv_fresh es, rfl, rfl⟩

theorem IsIdle.registers {s : State} (h : IsIdle s) :
    s.grp0 = 0x00#8 ∧ s.grp1 = 0x00#8 ∧ s.gcnt = 0#2 ∧ s.obuf = [] ∧ s.fault = false ∧ s.fcause = 0#2 ∧
      s.lut = alphabetRom := by
  obtain ⟨hf, hb⟩ := s.inReady_iff.1 h.ready
  obtain ⟨h0, h1⟩ := h.inv.group_zeroed.1 h.gcnt
  exact ⟨h0, h1, h.gcnt, hb, hf, h.inv.fault_cause.1 hf, h.inv.rom⟩

/-- Two idle cores differ in the column and the environment's fields only (R27, R41). -/
theorem IsIdle.eq_of_isIdle {s t : State} (hs : IsIdle s) (ht : IsIdle t) :
    t = { s with pending := t.pending, delivered := t.delivered, col := t.col, lastCmd := t.lastCmd } := by
  have hs := hs.registers
  have ht := ht.registers
  cases t
  simp_all

section
variable {s : State} (h : IsIdle s) {sources : List (List Byte)}
  (hhost : hostPart s.pending = (runWords sources).map Event.cmd)
include h hhost

/-- What a run over framed sources comes to (R138, R139, R141). -/
theorem IsIdle.forecast_eq : s.forecast =
    { stream := s.delivered ++ (wrap s.col.toNat (runCharacters sources)).1
      column := (wrap s.col.toNat (runCharacters sources)).2
      lastCmd := if sources = [] then s.lastCmd else some flushWord } := by
  obtain ⟨-, hb⟩ := s.inReady_iff.1 h.ready
  simp [State.forecast, State.wrapToCome, State.held_of_zero h.gcnt, hhost, hb, charactersToCome_runWords,
    lastWord_runWords]

theorem IsIdle.onCourse {m : Nat} {tail : List Event} (hsink : sinkPart s.pending = List.replicate m Event.take ++ tail)
    (htail : tail.head? ≠ some .take) : OnCourse (s.delivered.length + m) tail s where
  inv := h.inv
  running := (s.inReady_iff.1 h.ready).1
  events e he := by
    refine ⟨ne_of_mem_of_not_mem he (reset_notMem_of_hostPart (by rw [hhost])), ?_⟩
    rintro w rfl
    have hmem : Event.cmd w ∈ (runWords sources).map Event.cmd := hhost ▸ List.mem_filter.2 ⟨he, rfl⟩
    exact decode_of_mem_runWords (by simpa using hmem)
  sink := ⟨m, hsink, rfl⟩
  tail_head := htail

end

/-- Where no event is next, a run on its course waits for a SINK that has nothing more to come, or has come to its
forecast. -/
theorem OnCourse.waiting_cases {n : Nat} {tail : List Event} {s : State} (h : OnCourse n tail s)
    (hn : s.nextPending = none) :
    (s.obuf ≠ [] ∧ tail = [] ∧ s.delivered.length = n) ∨
    (s.obuf = [] ∧ hostPart s.pending = [] ∧ s.forecast.stream = s.delivered) := by
  obtain ⟨m, hsink, hm⟩ := h.sink
  obtain ⟨hb, hnone⟩ | ⟨hb, hhost⟩ := State.waiting_cases h.running hn
  · obtain ⟨rfl, htail⟩ : m = 0 ∧ tail = [] := by simpa using hsink.symm.trans hnone
    exact .inl ⟨hb, htail, hm⟩
  · have hcome : s.wrapToCome.1 = [] := by rw [State.wrapToCome, hhost]; rfl
    exact .inr ⟨hb, hhost, by simp [State.forecast, hb, hcome]⟩

/-- At the end of a run whose SINK takes the whole stream nothing is left. -/
theorem OnCourse.drained {s : State} (h : OnCourse s.forecast.stream.length [] s) (hn : s.nextPending = none) :
    s.pending = [] ∧ s.obuf = [] := by
  obtain ⟨hb, -, hlen⟩ | ⟨hb, hhost, hstream⟩ := h.waiting_cases hn
  · have hpos := List.length_pos_iff.2 hb
    simp only [State.forecast, List.length_append] at hlen
    omega
  · obtain ⟨m, hsink, hm⟩ := h.sink
    obtain rfl : m = 0 := by simpa [hstream] using hm
    exact ⟨pending_eq_nil hhost hsink, hb⟩

/-- A run at whose end nothing is left has come to its forecast. -/
theorem State.forecast_of_drained {s : State} (hp : s.pending = []) (hb : s.obuf = []) :
    s.forecast = { stream := s.delivered, column := s.col.toNat, lastCmd := s.lastCmd } := by
  simp [State.forecast, State.wrapToCome, hp, hb, hostPart, charactersToCome, wrap, lastWord]

/-- From an idle core, over framed sources and the TAKEs of all their symbols, the run delivers the wrapped encodings
and leaves the core idle. -/
theorem IsIdle.run_of_sources {s : State} (h : IsIdle s) {sources : List (List Byte)}
    (hhost : hostPart s.pending = (runWords sources).map Event.cmd)
    (hsink : sinkPart s.pending =
      List.replicate (wrap s.col.toNat (runCharacters sources)).1.length Event.take)
    (hlast : sources ≠ [] ∨ s.lastCmd = none) :
    steps s.pending.length s = .next { s with
      pending := [], delivered := s.delivered ++ (wrap s.col.toNat (runCharacters sources)).1,
      col := BitVec.ofNat 7 (wrap s.col.toNat (runCharacters sources)).2,
      lastCmd := if sources = [] then s.lastCmd else some flushWord } := by
  have hforecast := h.forecast_eq hhost
  have hcourse := h.onCourse hhost (tail := []) (by rw [hsink, List.append_nil]) nofun
  obtain ⟨t, ht, ⟨htcourse, htnone⟩ | ⟨-, hne⟩⟩ := hcourse.run
  · obtain ⟨hinv, hft⟩ := steps_forecast h.inv hcourse.reset_notMem ht
    have hn : s.delivered.length + (wrap s.col.toNat (runCharacters sources)).1.length =
        t.forecast.stream.length := by simp [hft, hforecast]
    rw [hn] at htcourse
    obtain ⟨hp, hb⟩ := htcourse.drained htnone
    rw [State.forecast_of_drained hp hb, hforecast, Forecast.mk.injEq] at hft
    obtain ⟨hdel, hcol, hcmd⟩ := hft
    have hidle : IsIdle t := by
      refine ⟨hinv, t.inReady_iff.2 ⟨htcourse.running, hb⟩, hinv.flushed ?_⟩
      rw [hcmd]
      split_ifs with hs
      · exact .inl (hlast.resolve_left (not_not_intro hs))
      · exact .inr rfl
    rw [ht, h.eq_of_isIdle hidle, hp, hdel, hcmd, ← hcol, BitVec.ofNat_toNat, BitVec.setWidth_eq]
  · exact absurd rfl hne

/-- Settles O32: a source's chunks are its bytes, so it is a run of one framed source from an idle core. -/
theorem sourceIsEncodedAndWrapped : Obligations.SourceIsEncodedAndWrapped := by
  rintro s d chunks hinv hr hg rfl hhost hsink
  have hwords : (chunks.flatMap fun chunk => chunk.map byteWord) ++ [flushWord] = runWords [chunks.flatten] := by
    simp [runWords, sourceWords, List.flatMap, List.map_flatten]
  have hchars : runCharacters [chunks.flatten] = encodeSource chunks.flatten := by simp [runCharacters]
  rw [hwords] at hhost
  rw [← hchars] at hsink ⊢
  exact IsIdle.run_of_sources ⟨hinv, hr, hg⟩ hhost hsink (.inl nofun)

theorem runCharacters_length (sources : List (List Byte)) :
    (runCharacters sources).length = (sources.map fun d => characterCount d.length).sum := by
  simp [runCharacters, List.length_flatMap, encodeSource_length]

/-- Settles O33: after RESET the core is idle; the run's column is its number of characters modulo the line. -/
theorem runDeliversWrappedEncodings : Obligations.RunDeliversWrappedEncodings := by
  intro s sources es hlut hp hduties hsink
  have hhost : hostPart es = (runWords sources).map Event.cmd := by
    simpa [HostKeepsDuties, hp, hostPart_cons, Event.agent] using hduties
  have hreset : step s = .next (fresh alphabetRom es) := by
    rw [step_of_head hp rfl, ← hlut]
    rfl
  have hcol : (runStream sources).2 = (sources.map fun d => characterCount d.length).sum % 76 := by
    rw [← runCharacters_length, runStream, (wrap_length_and_col 0 _ (by decide)).2, Nat.zero_add]
    rfl
  rw [steps_succ_of_next _ s _ hreset, ← hcol]
  refine ⟨_, (isIdle_fresh es).run_of_sources hhost hsink (.inr rfl), rfl, ?_⟩
  have hsucc : (if sources = [] then none else some flushWord) = none ∨
      (if sources = [] then none else some flushWord) = some flushWord := by
    split_ifs <;> simp
  exact congrArg (Observation.mk _) (decide_eq_true ⟨rfl, hsucc, rfl, rfl⟩)

/-- Settles O43: the run is on its course to the write error; short of it some symbol is still to come, so some event is
next. -/
theorem failedWriteIsObserved : Obligations.FailedWriteIsObserved := by
  intro sources es more n hhost hn hsink
  have hforecast := (isIdle_fresh es).forecast_eq hhost
  have hcourse := (isIdle_fresh es).onCourse hhost hsink nofun
  obtain ⟨t, ht, hend⟩ := hcourse.run
  obtain ⟨-, hft⟩ := steps_forecast (inv_fresh es) hcourse.reset_notMem ht
  have hstream : t.forecast.stream = (runStream sources).1 := by
    rw [hft, hforecast]
    rfl
  have hprefix : t.delivered <+: (runStream sources).1 := hstream ▸ t.delivered_prefix_forecast
  obtain ⟨hshort, hnone⟩ | ⟨⟨hfault, -, hlen⟩, -⟩ := hend
  · obtain ⟨-, htail, -⟩ | ⟨-, -, hall⟩ := hshort.waiting_cases hnone
    · cases htail
    · obtain ⟨m, -, hm⟩ := hshort.sink
      rw [← hstream, hall] at hn
      rw [fresh_delivered, List.length_nil] at hm
      omega
  · have hdel : t.delivered = (runStream sources).1.take n := by
      simpa [hlen] using List.prefix_iff_eq_take.1 hprefix
    exact ⟨t, ht, hfault, by rw [t.observation_of_fault hfault, hdel]⟩

end Sys2Proof.Machine
end

section
/-! Faults: entry (R163), the two causes (R160, R165), the state that only RESET leaves (R164, R167); and that none of
this ends the model's run. -/

namespace Sys2Proof.Machine

/-- Settles O21: the two branches of fault entry. -/
theorem faultEntryIsPrecise : Obligations.FaultEntryIsPrecise := fun k s =>
  ⟨raiseFault_of_running k s, raiseFault_of_faulted k s⟩

/-- Settles O27: a step keeps the state or performs an event, and every event answers a next state. -/
theorem everyStepAnswersNext : Obligations.EveryStepAnswersNext := by
  intro s
  cases hn : s.nextPending with
  | none => exact ⟨s, step_of_none s hn⟩
  | some p =>
    obtain ⟨e, rest⟩ := p
    rw [step_of_next s e rest hn]
    exact perform_next e _

/-! ## The fault state -/

theorem State.inReady_of_faulted {s : State} (hf : s.fault = true) : s.inReady = false := by
  simp [State.inReady, hf]

theorem State.outValid_of_faulted {s : State} (hf : s.fault = true) : s.outValid = false := by
  simp [State.outValid, hf]

/-- In the fault state the events that need a ready signal are not enabled (R164). -/
theorem State.enabled_of_faulted_iff {s : State} (hf : s.fault = true) (e : Event) :
    s.enabled e = true ↔ e = .reset := by
  cases e with
  | cmd w => simp [State.enabled, State.inReady_of_faulted hf]
  | take => simp [State.enabled, State.outValid_of_faulted hf]
  | werr => simp [State.enabled, State.outValid_of_faulted hf]
  | reset => simp [State.enabled]

/-- Settles O22: the event of a step is enabled, so in the fault state it is RESET. -/
theorem faultStateLeftOnlyByReset : Obligations.FaultStateLeftOnlyByReset := by
  intro s hf
  have henabled := State.enabled_of_faulted_iff hf
  refine ⟨State.inReady_of_faulted hf, State.outValid_of_faulted hf, henabled, fun t hst => ?_⟩
  obtain ⟨-, hkept⟩ | ⟨e, rest, hn, he, hp⟩ := step_cases s t hst
  · exact .inl hkept
  · obtain rfl := (henabled e).1 he
    cases hp
    exact .inr ⟨rest, hn, resetCore_eq_fresh _⟩

/-! ## The causes of a fault -/

/-- Of the effects of an accepted command only that of an illegal one enters the fault state (R165). -/
theorem CommandEffect.of_fault {i : Instr} {s t : State} (he : CommandEffect s i t) (hs : s.fault = false)
    (ht : t.fault = true) : (∀ d, i ≠ .byte d) ∧ i ≠ .flush ∧ t.fcause = Cause.illegalCmd.code := by
  cases he with
  | faults i hbyte hflush => exact ⟨hbyte, hflush, rfl⟩
  | firstByte d hg => simp [hs] at ht
  | secondByte d hg => simp [hs] at ht
  | flushesNothing hg => simp [hs] at ht
  | emitsUnit i cs hu => simp [hs] at ht

/-- Settles O23: of the effects of an event only those of an illegal command and of WERR enter the fault state. -/
theorem onlyTwoCausesOfFault : Obligations.OnlyTwoCausesOfFault := by
  intro s t hs hst ht
  obtain ⟨-, rfl⟩ | ⟨e, rest, hn, he⟩ := step_effect hst
  · simp [hs] at ht
  · cases he with
    | command w t hr hc =>
      obtain ⟨hbyte, hflush, hcause⟩ := hc.of_fault hs ht
      refine .inl ⟨w, rest, hn, hr, fun hop => hbyte _ (decode_of_op00 w hop), ?_, hcause⟩
      rintro rfl
      exact hflush rfl
    | takes c cs hf hb => simp [hs] at ht
    | writeFails hf hb => exact .inr ⟨rest, hn, s.outValid_iff.2 ⟨hf, hb⟩, rfl⟩
    | resets => simp at ht

end Sys2Proof.Machine
end

section
/-! RESET (R180, R181), and the ends of a run: what each shows, and that it stays one until RESET (R164, R189). -/

namespace Sys2Proof.Machine

/-- RESET as the next event starts a fresh run with the same ROM (R180). -/
theorem step_of_next_reset {s : State} {es : List Event} (hn : s.nextPending = some (.reset, es)) :
    step s = .next (fresh s.lut es) := by
  rw [step_of_next s .reset es hn]
  exact congrArg Host.Outcome.next (resetCore_eq_fresh _)

/-- STATUS reads neither the ROM nor the environment's fields, so a fresh run shows that of the reset state (R181). -/
theorem fresh_status (lut : Vector Byte 64) (es : List Event) : (fresh lut es).status = State.reset.status := rfl

/-- Settles O2: RESET needs no signal to be enabled, and a fresh run has the outputs of the reset state. -/
theorem resetEventFromAnyState : Obligations.ResetEventFromAnyState := fun s es =>
  ⟨rfl, fun hp => s.nextPending_head .reset es hp rfl,
    fun hn => ⟨_, step_of_next_reset hn, rfl, rfl, rfl, rfl, (fresh_status s.lut es).trans statusWordFields.2⟩⟩

/-! ## The ends of a run -/

theorem State.not_endedSuccessfully_of_obuf {s : State} (hb : 0 < s.obuf.length) : ¬ s.endedSuccessfully := by
  rintro ⟨-, -, hempty, -⟩
  simp [hempty] at hb

/-- Settles O36: IN_READY is FAULT = 0 with OBUF empty, and the invariant has no group pending after a final FLUSH. -/
theorem successfulEndShowsInStatus : Obligations.SuccessfulEndShowsInStatus := by
  refine fun s h => ⟨fun ⟨_, hlast, hb, hf⟩ => ?_, State.not_endedSuccessfully_of_obuf,
    fun hg ⟨_, hlast, _, _⟩ => hg (h.flushed hlast)⟩
  have hr : s.inReady = true := s.inReady_iff.2 ⟨hf, hb⟩
  simp [hr, hf, h.flushed hlast]

/-- Where the HOST has written its last command and no RESET is to come, it has no event to come. -/
theorem State.hostPart_eq_nil_of_writtenAll {s : State} (hw : s.hostHasWrittenAll = true)
    (hr : Event.reset ∉ s.pending) : hostPart s.pending = [] := by
  cases hp : hostPart s.pending with
  | nil => rfl
  | cons e es =>
    cases e with
    | cmd w => exact absurd hp (s.hostHasWrittenAll_iff.1 hw w es)
    | reset => exact absurd (List.mem_filter.1 (hp ▸ List.mem_cons_self)).1 hr
    | take => cases agent_of_hostPart hp
    | werr => cases agent_of_hostPart hp

/-- The events of the SINK are enabled by OUT_VALID (R135, R136). -/
theorem State.enabled_eq_outValid (s : State) {e : Event} (he : e.agent = .sink) : s.enabled e = s.outValid := by
  cases e with
  | cmd w => cases he
  | reset => cases he
  | take => rfl
  | werr => rfl

/-- With no event of the HOST to come and no symbol to take, a step keeps the state (R175). -/
theorem step_of_nothing_to_do {s : State} (hhost : hostPart s.pending = []) (hb : s.obuf = []) :
    step s = .next s := by
  refine step_of_none s ((coreWaitsWithoutEnabledEvent s).1.2 ⟨fun e es hp => ?_, fun e es hp => ?_⟩)
  · simp [hhost] at hp
  · rw [s.enabled_eq_outValid (agent_of_sinkPart hp)]
    simp [State.outValid, hb]

/-- An ended run, with no RESET to come, keeps its state (R164, R175). -/
theorem step_of_ended {s : State} (hr : Event.reset ∉ s.pending) (h : s.endedSuccessfully ∨ s.endedInFault) :
    step s = .next s := by
  obtain ⟨hw, -, hb, -⟩ | hf := h
  · exact step_of_nothing_to_do (State.hostPart_eq_nil_of_writtenAll hw hr) hb
  · exact step_of_faulted hf hr

theorem State.observation_of_not_endedSuccessfully {s : State} (h : ¬ s.endedSuccessfully) :
    s.observation = ⟨s.delivered, false⟩ :=
  congrArg (Observation.mk _) (decide_eq_false h)

/-- Settles O42: the verdict is the successful end by definition, and an ended run keeps its whole state. -/
theorem runObservation : Obligations.RunObservation := by
  refine fun s => ⟨rfl, ?_, s.observation_of_fault,
    fun hb => State.observation_of_not_endedSuccessfully (State.not_endedSuccessfully_of_obuf hb),
    fun hr h k => ⟨s, steps_of_step_self (step_of_ended hr h) k, rfl, Iff.rfl, Iff.rfl⟩⟩
  rw [s.observation_succeeded_iff, State.endedSuccessfully, s.hostHasWrittenAll_iff]
  rfl

end Sys2Proof.Machine
end

section
/-! Progress under a fair SINK (R192): enough answers of the SINK to come stay enough, so no event of the HOST waits for
good. -/

namespace Sys2Proof.Machine

/-- No RESET is to come, and the SINK has an event to come for each symbol that waits or that a command to come may
emit, of which there are at most `Config.obufDepth` per command (R26). -/
structure FairlyServed (s : State) : Prop where
  inv : Inv s
  reset_notMem : Event.reset ∉ s.pending
  answers : s.obuf.length + Config.obufDepth * (hostPart s.pending).length ≤ (sinkPart s.pending).length

/-- A command moves its share of answers from the commands to OBUF, TAKE uses up one with its symbol, and WERR is the
end. -/
theorem FairlyServed.step_keeps {s t : State} (h : FairlyServed s) {e : Event} {rest : List Event}
    (hn : s.nextPending = some (e, rest)) (hst : step s = .next t) : FairlyServed t ∨ t.endedInFault := by
  obtain ⟨-, hosts, sinks⟩ := agentsKeepTheirOrder s e rest hn
  have hanswers := h.answers
  have he := State.effect_of_next hn hst
  have hpend : t.pending = rest := he.pending_eq
  have hinv : Inv t := stepKeepsInvariant s t h.inv hst
  have hreset : Event.reset ∉ t.pending := (step_forecast h.inv h.reset_notMem hst).1
  cases he with
  | command w t hr hc =>
    obtain ⟨hhost, hsink⟩ := hosts rfl
    refine .inl ⟨hinv, hreset, ?_⟩
    have hbound := hinv.obuf_bound
    rw [hhost, hsink, List.length_cons, Nat.mul_succ] at hanswers
    rw [hpend]
    omega
  | takes c cs hf hb =>
    obtain ⟨hsink, hhost⟩ := sinks rfl
    have hb : s.obuf = c :: cs := hb
    refine .inl ⟨hinv, hreset, ?_⟩
    rw [hb, hsink, hhost, List.length_cons, List.length_cons] at hanswers
    rw [hpend, State.deliver_obuf]
    omega
  | writeFails hf hb => exact .inr rfl
  | resets => exact absurd (s.nextPending_mem hn) h.reset_notMem

/-- Where no event is next, a running core served fairly has taken all commands and given all symbols. -/
theorem FairlyServed.finished {s : State} (h : FairlyServed s) (hf : s.fault = false) (hn : s.nextPending = none) :
    hostPart s.pending = [] ∧ s.obuf = [] := by
  obtain ⟨hb, hsink⟩ | ⟨hb, hhost⟩ := State.waiting_cases hf hn
  · have hpos := List.length_pos_iff.2 hb
    have hanswers := h.answers
    rw [hsink, List.length_nil] at hanswers
    omega
  · exact ⟨hhost, hb⟩

/-- Each step performs one of the events to come, until a fault or until none is next. -/
theorem FairlyServed.run {s : State} (h : FairlyServed s) :
    ∃ k t, k ≤ s.pending.length ∧ steps k s = .next t ∧
      (t.endedInFault ∨ (hostPart t.pending = [] ∧ t.obuf = [] ∧ t.fault = false)) := by
  cases hf : s.fault with
  | true => exact ⟨0, s, Nat.zero_le _, rfl, .inl hf⟩
  | false =>
    cases hn : s.nextPending with
    | none =>
      obtain ⟨hhost, hb⟩ := h.finished hf hn
      exact ⟨0, s, Nat.zero_le _, rfl, .inr ⟨hhost, hb, hf⟩⟩
    | some p =>
      obtain ⟨e, rest⟩ := p
      obtain ⟨t, hst⟩ := everyStepAnswersNext s
      have hpend : t.pending = rest := (State.effect_of_next hn hst).pending_eq
      have hlen : s.pending.length = t.pending.length + 1 := hpend ▸ State.length_of_nextPending hn
      obtain hserved | hfault := h.step_keeps hn hst
      · obtain ⟨k, u, hk, hu, hend⟩ := hserved.run
        exact ⟨k + 1, u, by omega, (steps_succ_of_next k s t hst).trans hu, hend⟩
      · exact ⟨1, t, by omega, steps_succ_of_next 0 s t hst, .inl hfault⟩
termination_by s.pending.length

/-- Settles O35: the premise is that the state is served fairly. -/
theorem fairSinkEndsTheRun : Obligations.FairSinkEndsTheRun := fun _ hinv hreset hanswers =>
  FairlyServed.run ⟨hinv, hreset, hanswers⟩

end Sys2Proof.Machine
end
